-- ==== Sys2Proof/Word.lean ====
section
/-!
DEFINITION. The words of the Sparsnas decoder block: bytes, the packet operands, the keystream, the
command word and its frame of bytes (spec: 00_scope.md R5, R7; 20_memory.md R30; 30_encoding.md R46).
-/

namespace Sys2Proof

/-- A byte, `u8` (R7). -/
abbrev Byte := BitVec 8

/-- The 18 payload bytes `data[0..17]`, index 0 first (R30). -/
abbrev Payload := Vector Byte 18

/-- The 20 bytes of a checked buffer: 18 payload bytes and a 2-byte checksum (R30). A packet of another
length cannot be written down, as R39 asks. -/
abbrev Buffer := Vector Byte 20

/-- The keystream `KEY[0..4]` (R12). -/
abbrev Keystream := Vector Byte 5

/-- A 168-bit command word `W[167:0]` (R46). -/
abbrev CommandWord := BitVec 168

/-- A command word seen as the bytes `F[0..20]` (R46). -/
abbrev Frame := Vector Byte 21

end Sys2Proof
end

