-- ==== Sys2Proof/Config.lean ====
section
/-!
DEFINITION. The parameters of a model of the block (spec: 00_scope.md R6; 92_eei_decisions.md D2, D10,
D13, D17). `CK` gets its value in Machine/Checksum.lean (`Sys2Proof.Machine.config`), beside the
algorithm of R62; the number of instances is the argument of `Sys2Proof.Machine.System.reset`.
-/

namespace Sys2Proof

/-- The parameters the rules read: the checksum function and whether the power unit is present (R6). -/
structure Config where
  /-- `CK`, a total function from 18 bytes to 16 bits (R60, R61). -/
  ck : Payload → BitVec 16
  /-- `HAS_POWER` (R6, D13). -/
  hasPower : Bool

/-- The value this spec takes for `HAS_POWER`: true (R6, D13). Log entry 5. -/
def Config.powerFitted : Bool := true

/-- One less than `LATENCY(op)`: OPEN in R6, so nothing in Lean can evaluate it. Log entry 6. -/
opaque Config.latencyPred : Byte → Nat

/-- `LATENCY(op)`, "any finite positive number" (R6, R125), by opcode. No rule reads it, and no
definition of the model does. Log entry 6. -/
def Config.latency (op : Byte) : Nat := Config.latencyPred op + 1

end Sys2Proof
end

