-- ==== Sys2Proof/Syntax.lean ====
section
/-!
DEFINITION. The five commands of the block, one constructor per row of spec/opcode_table.json
(spec: 30_encoding.md R45). Where a processor manual has instructions this hardware has commands (R1).
-/

namespace Sys2Proof

/-- A command with its operand (R45). The operand widths are those of the source's signatures. -/
inductive Instr where
  /-- LDSER, `new(serial: u32)`: construct the decoder instance (R67). -/
  | ldser (serial : BitVec 32)
  /-- CKSUM, `checksum(bytes[18])` (R64). -/
  | cksum (data : Payload)
  /-- DECRAW, `decode_without_checksum(data: [u8; 18])` (R82). -/
  | decraw (data : Payload)
  /-- DEC, `decode(data: [u8; 20])` (R87). -/
  | dec (data : Buffer)
  /-- PWR, `power(record, pulses_per_kwh: u32)`, on the record held in the record registers (R92). -/
  | pwr (pulsesPerKwh : BitVec 32)
deriving DecidableEq, Repr

end Sys2Proof
end

