-- ==== Sys2Proof/WellFormed.lean ====
section
/-!
DEFINITION. Which commands a block executes (spec: 30_encoding.md R45, R53). The operand types leave
nothing else to check: every operand of every width is legal (R11, R39, R60, R117), and PWR alone
depends on the parameter `HAS_POWER`.
-/

namespace Sys2Proof

/-- A command is one of the block's commands: "When `HAS_POWER` is false, opcode 0x05 is reserved" (R45). -/
def Instr.wellFormed (hasPower : Bool) : Instr → Bool
  | .ldser _ => true
  | .cksum _ => true
  | .decraw _ => true
  | .dec _ => true
  | .pwr _ => hasPower

end Sys2Proof
end

