-- ==== Sys2Proof/Decode.lean ====
section
/-!
DEFINITION. The command decoder, total on every word, and after it the encoder
(spec: 30_encoding.md R46 to R53; spec/opcode_table.json). Also the byte order of byte strings, which
both use (20_memory.md R32).
-/

namespace Sys2Proof

/-- The big-endian number of a list of bytes, the first the most significant (R8 `BE`, R32). -/
def bigEndian (bytes : List Byte) : Nat :=
  bytes.foldl (fun acc b => acc * 256 + b.toNat) 0

/-! ### The decoder -/

/-- Why a word is no command (R53). Every one of these raises IllegalCommand; `incompleteWord` is a byte
string shorter than a word, on which "the block starts a command only when it has all 168 bits" (R46). -/
inductive DecodeReject where
  /-- Opcode 0x00 or 0x06 to 0xFF. -/
  | reservedOpcode (op : Byte)
  /-- A word of format S or B18 with a nonzero reserved bit. -/
  | reservedBits (op : Byte)
  /-- Opcode 0x05 when `HAS_POWER` is false. -/
  | powerAbsent
  /-- Fewer than 21 bytes: no word yet. -/
  | incompleteWord (bytes : Nat)
deriving DecidableEq, Repr

/-- `op = W[167:160]` (R46). -/
def opField (w : CommandWord) : Byte := w.extractLsb' 160 8

/-- `imm32 = W[159:128]` of format S (R47). -/
def imm32Field (w : CommandWord) : BitVec 32 := w.extractLsb' 128 32

/-- `W[127:0]`, reserved in format S (R47). -/
def reservedS (w : CommandWord) : BitVec 128 := w.extractLsb' 0 128

/-- `W[15:0]`, reserved in format B18 (R48). -/
def reservedB18 (w : CommandWord) : BitVec 16 := w.extractLsb' 0 16

/-- Payload byte j, `W[159-8j : 152-8j]`, for j in 0..19 (R46). -/
def payloadByte (w : CommandWord) (j : Nat) : Byte := w.extractLsb' (152 - 8 * j) 8

/-- `data[0..17]` of format B18 (R48). -/
def data18 (w : CommandWord) : Payload := Vector.ofFn fun j => payloadByte w j

/-- `data[0..19]` of format B20 (R49). -/
def data20 (w : CommandWord) : Buffer := Vector.ofFn fun j => payloadByte w j

/-- Decoding a command word (R52). "The decoder is total: every 168-bit word either selects exactly one
command or raises IllegalCommand." -/
def decode (hasPower : Bool) (w : CommandWord) : Except DecodeReject Instr :=
  let op := opField w
  if op = 0x01#8 then
    if reservedS w = 0#128 then .ok (.ldser (imm32Field w)) else .error (.reservedBits op)
  else if op = 0x02#8 then
    if reservedB18 w = 0#16 then .ok (.cksum (data18 w)) else .error (.reservedBits op)
  else if op = 0x03#8 then
    if reservedB18 w = 0#16 then .ok (.decraw (data18 w)) else .error (.reservedBits op)
  else if op = 0x04#8 then .ok (.dec (data20 w))
  else if op = 0x05#8 then
    if hasPower then
      if reservedS w = 0#128 then .ok (.pwr (imm32Field w)) else .error (.reservedBits op)
    else .error .powerAbsent
  else .error (.reservedOpcode op)

/-! ### The frame of bytes -/

/-- `F[k] = W[167-8k : 160-8k]` (R46). -/
def frameByte (w : CommandWord) (k : Nat) : Byte := w.extractLsb' (160 - 8 * k) 8

/-- The word as its frame `F[0..20]`, opcode first (R46). -/
def frameOfWord (w : CommandWord) : Frame := Vector.ofFn fun k => frameByte w k

/-- The word whose frame is given: `F[0]` is the most significant byte (R46). -/
def wordOfFrame (f : Frame) : CommandWord := BitVec.ofNat 168 (bigEndian f.toList)

/-- Decoding a byte string, in frame order: the first command and the bytes after its 21. -/
def decodeBytes (hasPower : Bool) (bytes : List Byte) : Except DecodeReject (Instr × List Byte) :=
  if bytes.length < 21 then .error (.incompleteWord bytes.length)
  else
    match decode hasPower (BitVec.ofNat 168 (bigEndian (bytes.take 21))) with
    | .ok i => .ok (i, bytes.drop 21)
    | .error r => .error r

/-! ### The encoder -/

/-- The opcode of a command (R45). -/
def Instr.opcode : Instr → Byte
  | .ldser _ => 0x01#8
  | .cksum _ => 0x02#8
  | .decraw _ => 0x03#8
  | .dec _ => 0x04#8
  | .pwr _ => 0x05#8

/-- A scalar as its four payload bytes, big-endian (R47, R50). -/
def scalarBytes (n : BitVec 32) : Vector Byte 4 :=
  #v[n.extractLsb' 24 8, n.extractLsb' 16 8, n.extractLsb' 8 8, n.extractLsb' 0 8]

/-- The 20 payload bytes of a command, reserved bytes zero (R47 to R49). -/
def Instr.payload : Instr → Vector Byte 20
  | .ldser serial => scalarBytes serial ++ Vector.replicate 16 0#8
  | .cksum data => data ++ #v[0#8, 0#8]
  | .decraw data => data ++ #v[0#8, 0#8]
  | .dec data => data
  | .pwr pulsesPerKwh => scalarBytes pulsesPerKwh ++ Vector.replicate 16 0#8

/-- The frame of a command: opcode first, then the payload bytes in index order (R46). -/
def Instr.frame (i : Instr) : Frame := #v[i.opcode] ++ i.payload

/-- The command word of a command (R46 to R49). -/
def encode (i : Instr) : CommandWord := wordOfFrame i.frame

/-! ### The opcode table -/

/-- A row of spec/opcode_table.json: the bits a word must have, and whether the row needs `HAS_POWER`. -/
structure OpcodeRow where
  /-- The row's mnemonic. -/
  mnemonic : String
  /-- The opcode byte. -/
  op : Byte
  /-- The bits of the word that the row fixes. -/
  mask : CommandWord
  /-- Their values. -/
  pattern : CommandWord
  /-- The row stands only with `HAS_POWER`. -/
  needsPower : Bool
deriving DecidableEq, Repr

/-- spec/opcode_table.json, row for row. -/
def opcodeTable : List OpcodeRow :=
  [ ⟨"LDSER", 0x01, 0xFF00000000FFFFFFFFFFFFFFFFFFFFFFFFFFFFFFFF,
      0x010000000000000000000000000000000000000000, false⟩,
    ⟨"CKSUM", 0x02, 0xFF000000000000000000000000000000000000FFFF,
      0x020000000000000000000000000000000000000000, false⟩,
    ⟨"DECRAW", 0x03, 0xFF000000000000000000000000000000000000FFFF,
      0x030000000000000000000000000000000000000000, false⟩,
    ⟨"DEC", 0x04, 0xFF0000000000000000000000000000000000000000,
      0x040000000000000000000000000000000000000000, false⟩,
    ⟨"PWR", 0x05, 0xFF00000000FFFFFFFFFFFFFFFFFFFFFFFFFFFFFFFF,
      0x050000000000000000000000000000000000000000, true⟩ ]

/-- A word is an instance of a row. -/
def OpcodeRow.accepts (hasPower : Bool) (r : OpcodeRow) (w : CommandWord) : Bool :=
  decide (w &&& r.mask = r.pattern) && (hasPower || !r.needsPower)

/-- The decoder on an instruction given as spec/opcode_table.json numbers its bits: bit 0 is `W[0]`, and
every bit above `nbits` is zero. A number that does not fit the 168 bits of a word is no instruction.
Log entry 11. -/
def decodeTableWord (nbits w : Nat) : Option Instr :=
  let bits := w % 2 ^ nbits
  if bits < 2 ^ 168 then
    match decode Config.powerFitted (BitVec.ofNat 168 bits) with
    | .ok i => some i
    | .error _ => none
  else none

end Sys2Proof
end

