-- ==== Sys2Proof/Machine/State.lean ====
section
/-!
DEFINITION. The state of one block: every register of 10_state.md R10, and the block's interface to its
host (the events still to come and the last completion; 70_reset_and_hazards.md R126). All of it is plain
data. There is no memory, no program counter and no mode (R17, R31, R111).
-/

namespace Sys2Proof.Machine

/-- The decoded packet record, the six registers `R_SEQ` to `R_SERIAL` (R14). All are unsigned and none is
range-checked. -/
structure Record where
  /-- `R_SEQ`, packet_seq. -/
  seq : BitVec 16
  /-- `R_TBP`, time_between_pulses. -/
  tbp : BitVec 16
  /-- `R_PULSES`, pulse_count. -/
  pulses : BitVec 32
  /-- `R_BATT`, battery_percentage. -/
  batt : BitVec 8
  /-- `R_STATUS`, status. -/
  status : BitVec 16
  /-- `R_SERIAL`, the low six decimal digits of the serial. -/
  serial : BitVec 32
deriving DecidableEq, Repr

/-- The cleared record registers (R71, R81). -/
def Record.zero : Record := ⟨0, 0, 0, 0, 0, 0⟩

/-- The four decode errors (R101). A decode error is a normal completion, recorded in `ERR`. -/
inductive ErrorKind where
  | badCRC
  | badLength
  | badPacketCount
  | badSerial
deriving DecidableEq, Repr

/-- The five faults of the block (R103). The spec describes what raising one does (R104), and the block
goes on (R109), so a command that raises one ends in a NEXT state. -/
inductive FaultCause where
  /-- The word is no command (cause 1). -/
  | illegalCommand
  /-- DECRAW or DEC with `KVALID = 0` (cause 2). -/
  | noKey
  /-- PWR with `RVALID = 0` (cause 3). -/
  | noRecord
  /-- PWR with a zero product (cause 4). -/
  | divideByZero
  /-- PWR with a product of 2^32 or more (cause 5). -/
  | powerOverflow
deriving DecidableEq, Repr

/-- What the host gets back for a command: "one completion, with fault cause 0 (none) or 1..5" (R126). -/
inductive Completion where
  /-- Cause 0: success, or a decode error (R100, R101). -/
  | ok
  /-- The command raised a fault (R104). -/
  | faulted (cause : FaultCause)
deriving DecidableEq, Repr

/-- What the host can do to the block (R126). Reading the registers changes nothing, so it is no event. -/
inductive HostEvent where
  /-- The reset event (R120). -/
  | reset
  /-- A command word is issued (R46). -/
  | command (w : CommandWord)
deriving DecidableEq, Repr

/-- The block's registers (R10) and its interface to the host. DESIGN CHOICE: the host sees every register,
`SERIAL`, `KEY` and `KVALID` among them, as R22 and R111 say; R126 says that the host cannot read `KEY`, and
R10's "read by" column names no host for the three. Unsafe for a claim that the keystream is hidden. Log
entry 13. -/
structure State where
  /-- `SERIAL` (R11). -/
  serial : BitVec 32
  /-- `KEY[0..4]` (R12). Whether the host sees it: log entry 13. -/
  key : Keystream
  /-- `KVALID` (R13). -/
  kvalid : Bool
  /-- `R_SEQ`, `R_TBP`, `R_PULSES`, `R_BATT`, `R_STATUS`, `R_SERIAL` (R14). -/
  record : Record
  /-- `RVALID` (R15). -/
  rvalid : Bool
  /-- `ERR` (R18). -/
  err : BitVec 3
  /-- `CSUM` (R19). -/
  csum : BitVec 16
  /-- `POWER` (R20). -/
  power : BitVec 32
  /-- `FAULT`, five sticky bits (R21). -/
  fault : BitVec 5
  /-- The model's own: the completion of the last completed command since reset (R104, R126). Log entry 2. -/
  completion : Option Completion
  /-- The model's own: the host's events still to come, in the order it issues them (R25, R127). The block
  holds no queue (R10); this is the input of the step function. Log entry 1. -/
  inputs : List HostEvent
deriving DecidableEq, Repr

/-- The machine right after reset: every register zero (R26), nothing issued by the host yet. -/
def State.reset : State where
  serial := 0
  key := #v[0, 0, 0, 0, 0]
  kvalid := false
  record := Record.zero
  rvalid := false
  err := 0
  csum := 0
  power := 0
  fault := 0
  completion := none
  inputs := []

/-- What stops the machine with a fault: nothing. "A command, once accepted, cannot be interrupted,
cancelled or timed out; it always completes" (R107), and the block's own faults are next states (R104,
R109). Having no constructor says so in the type. Log entry 9. -/
inductive Fault where
deriving DecidableEq, Repr

/-- What the model refuses. -/
inductive Refusal where
  /-- Raised by an arm of `exec` whose command has no meaning yet; no arm is left so. Safe. -/
  | notModelled (mnemonic : String)
  /-- Raised by `System.step` alone, when the host addresses an instance that is not there (R44 gives no
  such command). Safe: it allows less than any hardware. Log entry 7. -/
  | noSuchInstance
deriving DecidableEq, Repr

end Sys2Proof.Machine
end

