-- ==== Sys2Proof/Machine/Operands.lean ====
section
/-!
DEFINITION. Reading the packet operand: `MemRead`, `BE`, the de-obfuscator and the field extractor
(spec: 20_memory.md R32, R33, R38; 42_decode_raw.md R75 to R77).
-/

namespace Sys2Proof.Machine

/-- `MemRead(off, n)`: the n raw bytes from `data[off]` on as one big-endian number of width 8n (R33). An
access outside the operand cannot be formed (R37). -/
def memRead {len : Nat} (data : Vector Byte len) (off n : Nat) (_inside : off + n ≤ len) :
    BitVec (8 * n) :=
  BitVec.ofNat (8 * n) (bigEndian ((data.toList.drop off).take n))

/-- `BE` of two bytes, `a * 256 + b` (R32, R77). -/
def be16 (a b : Byte) : BitVec 16 := a ++ b

/-- `BE` of four bytes, `a * 2^24 + b * 2^16 + c * 2^8 + d` (R32, R77). -/
def be32 (a b c d : Byte) : BitVec 32 := a ++ b ++ c ++ d

/-- Bytes 0 to 17 of a checked buffer, "`data[0..17]`" (R89). -/
def payloadOf (data : Buffer) : Payload := Vector.ofFn fun i => data[i.val]

/-- The plain bytes `P[0..17]`: bytes 0 to 2 pass through, bytes 3 to 17 are XORed with the cycling
keystream (R75). -/
def deobfuscate (key : Keystream) (data : Payload) : Payload :=
  Vector.ofFn fun i =>
    if i.val < 3 then data[i] else data[i] ^^^ key[(i.val - 3) % 5]'(Nat.mod_lt _ (by decide))

/-- The six fields of the plain bytes (R77). -/
def fieldsOf (p : Payload) : Record where
  status := be16 p[3] p[4]
  serial := be32 p[5] p[6] p[7] p[8]
  seq := be16 p[9] p[10]
  tbp := be16 p[11] p[12]
  pulses := be32 p[13] p[14] p[15] p[16]
  batt := p[17]

end Sys2Proof.Machine
end

