-- ==== Sys2Proof/Machine/Flags.lean ====
section
/-!
DEFINITION. The numeric codes of decode errors and faults, and the sticky bits of `FAULT`
(spec: 10_state.md R18, R21; 60_exceptions.md R101, R103).
-/

namespace Sys2Proof.Machine

/-- The code of a decode error in `ERR` (R18, R101). -/
def errCode : ErrorKind → BitVec 3
  | .badCRC => 1
  | .badLength => 2
  | .badPacketCount => 3
  | .badSerial => 4

/-- `ERR` after a successful decode, after LDSER and after reset: OK (R18). -/
def errOk : BitVec 3 := 0

/-- The cause code of a fault, 1 to 5 (R103). -/
def causeCode : FaultCause → Nat
  | .illegalCommand => 1
  | .noKey => 2
  | .noRecord => 3
  | .divideByZero => 4
  | .powerOverflow => 5

/-- The cause a completion carries: 0 for none (R126). -/
def completionCause : Completion → Nat
  | .ok => 0
  | .faulted c => causeCode c

/-- The mask of a fault's bit: "Bit `c-1` is set when a command raises the fault of cause code `c`" (R21). -/
def faultMask (c : FaultCause) : BitVec 5 := 1#5 <<< (causeCode c - 1)

end Sys2Proof.Machine
end

