-- ==== Sys2Proof/Machine/Ops.lean ====
section
/-!
DEFINITION. The shared operations on the registers: completing a command, raising a fault (the block's
one exception entry), clearing and writing the record, and the reset event (spec: 60_exceptions.md R100,
R101, R104; 42_decode_raw.md R80, R81; 70_reset_and_hazards.md R120). There is no return from an
exception: "There is no return-from-trap, because there is no trap handler" (R109).
-/

namespace Sys2Proof.Machine

/-- A command completes without a fault: cause 0 (R126). -/
def State.complete (s : State) : State := { s with completion := some .ok }

/-- Fault entry: the fault's bit of `FAULT` is set and the completion carries its cause; "No other register
changes" (R104). -/
def State.raise (s : State) (c : FaultCause) : State :=
  { s with fault := s.fault ||| faultMask c, completion := some (.faulted c) }

/-- The record registers and `RVALID` are cleared (R71, R81). -/
def State.clearRecord (s : State) : State := { s with record := Record.zero, rvalid := false }

/-- `fail <kind>`: the record is cleared, `ERR` takes the code, and the command completes normally (R81,
R101). -/
def State.failDecode (s : State) (k : ErrorKind) : State :=
  { s.clearRecord with err := errCode k, completion := some .ok }

/-- A successful decode: the six record registers are written together, `RVALID` is 1, `ERR` is 0 (R80). -/
def State.succeedDecode (s : State) (r : Record) : State :=
  { s with record := r, rvalid := true, err := errOk, completion := some .ok }

/-- The end of a decode command that found an instance: one of R80 and R81. -/
def State.finishDecode (s : State) : Except ErrorKind Record → State
  | .ok r => s.succeedDecode r
  | .error k => s.failDecode k

/-- The reset event: "set every register to the reset value of rule R26" (R120). The host's events still to
come are not the block's and stay. -/
def State.hostReset (s : State) : State := { State.reset with inputs := s.inputs }

end Sys2Proof.Machine
end

