-- ==== Sys2Proof/Machine/Construct.lean ====
section
/-!
DEFINITION. Keystream derivation and the command LDSER (spec: 41_construct.md R67 to R72).
-/

namespace Sys2Proof.Machine

/-- The obfuscation base of a serial, wrapping at 2^32 (R68). -/
def obfuscationBase (serial : BitVec 32) : BitVec 32 := serial + 0x8AEF9335#32

/-- `derive`: the keystream `[0x47, b2, b3, b0, b1]` of the base's little-endian bytes (R34, R69). -/
def derive (serial : BitVec 32) : Keystream :=
  let base := obfuscationBase serial
  let b0 := base.extractLsb' 0 8
  let b1 := base.extractLsb' 8 8
  let b2 := base.extractLsb' 16 8
  let b3 := base.extractLsb' 24 8
  #v[0x47#8, b2, b3, b0, b1]

/-- The instance registers take a serial and its keystream, and `KVALID` is set (R67). -/
def State.loadInstance (s : State) (serial : BitVec 32) : State :=
  { s with serial := serial, key := derive serial, kvalid := true }

/-- LDSER: construct the instance and clear the record, `RVALID` and `ERR` (R67, R71). "No failure
conditions; construction always succeeds." -/
def execLdser (serial : BitVec 32) (s : State) : Host.Outcome State Fault Refusal :=
  .next { ((s.loadInstance serial).clearRecord.complete) with err := errOk }

end Sys2Proof.Machine
end

