-- ==== Sys2Proof/Machine/DecodeRaw.lean ====
section
/-!
DEFINITION. The field extractor and validator, and the command DECRAW (spec: 42_decode_raw.md R73 to R83).
-/

namespace Sys2Proof.Machine

/-- The length marker holds: `data[0] = 17` (R74). -/
def lengthOk (data : Payload) : Bool := data[0] == 17#8

/-- The sequence echo holds: `zext_8(seq[6:0]) = data[2]`, all eight bits of `data[2]` (R78). -/
def echoOk (seq : BitVec 16) (echo : Byte) : Bool := (seq.extractLsb' 0 7).setWidth 8 == echo

/-- The low six decimal digits of a serial, `SERIAL mod 1_000_000`, in 32 bits (R79). -/
def lowSixDigits (serial : BitVec 32) : BitVec 32 := BitVec.ofNat 32 (serial.toNat % 1000000)

/-- The serial check holds, on all 32 bits (R79). -/
def serialOk (serialField serial : BitVec 32) : Bool := serialField == lowSixDigits serial

/-- Raw decode: the first failing check in the order of R73 and R102, or the record. It cannot give
BadCRC. -/
def rawDecode (serial : BitVec 32) (key : Keystream) (data : Payload) : Except ErrorKind Record :=
  if lengthOk data then
    let fields := fieldsOf (deobfuscate key data)
    if echoOk fields.seq data[2] then
      if serialOk fields.serial serial then .ok fields else .error .badSerial
    else .error .badPacketCount
  else .error .badLength

/-- A decode command: NoKey when there is no instance (R13, R105), else the decode of the instance's serial
and key ends it (R80, R81). -/
def decodeCommand (decodeWith : BitVec 32 → Keystream → Except ErrorKind Record) (s : State) :
    Host.Outcome State Fault Refusal :=
  if s.kvalid then .next (s.finishDecode (decodeWith s.serial s.key)) else .next (s.raise .noKey)

/-- DECRAW (R82). -/
def execDecraw (data : Payload) (s : State) : Host.Outcome State Fault Refusal :=
  decodeCommand (fun serial key => rawDecode serial key data) s

end Sys2Proof.Machine
end

