-- ==== Sys2Proof/Machine/DecodeChecked.lean ====
section
/-!
DEFINITION. The checksum-verified decode and the command DEC (spec: 43_decode_checked.md R87 to R91).
-/

namespace Sys2Proof.Machine

/-- The checksum comparison holds: `CK(data[0..17]) = MemRead(18, 2)`, big-endian, over the raw bytes
(R35, R88). -/
def checksumOk (ck : Payload → BitVec 16) (data : Buffer) : Bool :=
  ck (payloadOf data) == memRead data 18 2 (by decide)

/-- Checked decode: the checksum first, "without attempting de-obfuscation" on a mismatch (R88), then raw
decode of bytes 0 to 17 (R89). -/
def checkedDecode (ck : Payload → BitVec 16) (serial : BitVec 32) (key : Keystream) (data : Buffer) :
    Except ErrorKind Record :=
  if checksumOk ck data then rawDecode serial key (payloadOf data) else .error .badCRC

/-- DEC under a checksum function (R87); rules R88 to R91 hold for any `CK` (D10). -/
def decUnder (ck : Payload → BitVec 16) (data : Buffer) (s : State) :
    Host.Outcome State Fault Refusal :=
  decodeCommand (fun serial key => checkedDecode ck serial key data) s

/-- DEC (R87). It does not write `CSUM` (R19). -/
def execDec (data : Buffer) (s : State) : Host.Outcome State Fault Refusal :=
  decUnder config.ck data s

end Sys2Proof.Machine
end

