-- ==== Sys2Proof/Machine/Power.lean ====
section
/-!
DEFINITION. The power unit and the command PWR (spec: 44_power.md R92 to R98).
-/

namespace Sys2Proof.Machine

/-- The power dividend 3_686_400_000 (R5, R97). -/
def powerDividend : Nat := 3686400000

/-- The divisor `d`: the exact product of the operand and `R_TBP`, up to 48 bits (R93). -/
def powerDivisor (pulsesPerKwh : BitVec 32) (tbp : BitVec 16) : Nat := pulsesPerKwh.toNat * tbp.toNat

/-- The quotient for a divisor in 1..2^32-1, truncated (R93). -/
def powerQuotient (d : Nat) : BitVec 32 := BitVec.ofNat 32 (powerDividend / d)

/-- `POWER` takes a value and the command completes (R92). -/
def State.putPower (s : State) (v : BitVec 32) : State := { s.complete with power := v }

/-- PWR: NoRecord, then DivideByZero or PowerOverflow, else the quotient (R92, R94, R95, R98, R105). -/
def execPwr (pulsesPerKwh : BitVec 32) (s : State) : Host.Outcome State Fault Refusal :=
  if s.rvalid then
    let d := powerDivisor pulsesPerKwh s.record.tbp
    if d = 0 then .next (s.raise .divideByZero)
    else if 2 ^ 32 ≤ d then .next (s.raise .powerOverflow)
    else .next (s.putPower (powerQuotient d))
  else .next (s.raise .noRecord)

end Sys2Proof.Machine
end

