-- ==== Sys2Proof/Machine/Dispatch.lean ====
section
/-!
DEFINITION. One arm per command (spec: 30_encoding.md R45).
-/

namespace Sys2Proof.Machine

/-- The effect of a command (R45). -/
def exec (i : Instr) (s : State) : Host.Outcome State Fault Refusal :=
  match i with
  | .ldser serial => Sys2Proof.Machine.execLdser serial s
  | .cksum data => Sys2Proof.Machine.execCksum data s
  | .decraw data => Sys2Proof.Machine.execDecraw data s
  | .dec data => Sys2Proof.Machine.execDec data s
  | .pwr pulsesPerKwh => Sys2Proof.Machine.execPwr pulsesPerKwh s

end Sys2Proof.Machine
end

