-- ==== Sys2Proof/Machine/HostLink.lean ====
section
/-!
DEFINITION. What the block does with an event of its host: a command word is decoded and executed or
refused as IllegalCommand, and a reset resets (spec: 30_encoding.md R46, R52, R53; 70_reset_and_hazards.md
R120, R126).
-/

namespace Sys2Proof.Machine

/-- A command word: the command it decodes to is executed, and a word that decodes to none raises
IllegalCommand (R52, R53). `hasPower` is the parameter `HAS_POWER`. -/
def acceptWord (hasPower : Bool) (w : CommandWord) (s : State) : Host.Outcome State Fault Refusal :=
  match decode hasPower w with
  | .ok i => exec i s
  | .error _ => .next (s.raise .illegalCommand)

/-- One event of the host (R126). -/
def accept (hasPower : Bool) (e : HostEvent) (s : State) : Host.Outcome State Fault Refusal :=
  match e with
  | .reset => .next s.hostReset
  | .command w => acceptWord hasPower w s

/-- The host's next event is taken off its list and accepted; with none, the block is idle and "all state
survives idleness" (R113). Log entry 3. -/
def takeEvent (hasPower : Bool) (s : State) : Host.Outcome State Fault Refusal :=
  match s.inputs with
  | [] => .next s
  | e :: rest => accept hasPower e { s with inputs := rest }

/-- The host will issue further events after those it already has in hand (R127). -/
def State.issue (s : State) (events : List HostEvent) : State :=
  { s with inputs := s.inputs ++ events }

end Sys2Proof.Machine
end

