-- ==== Sys2Proof/Machine/Step.lean ====
section
/-!
DEFINITION. One step of the machine: one event of the host, from acceptance to completion
(spec: 20_memory.md R41; 70_reset_and_hazards.md R121, R125).
-/

namespace Sys2Proof.Machine

/-- One step: the host's next event, under this model's parameters. -/
def step (s : State) : Host.Outcome State Fault Refusal := takeEvent config.hasPower s

/-- `s` with a command word, given as spec/opcode_table.json numbers its bits, as the host's very next
event. The block fetches nothing (R17); this stands for the host issuing the word (log entry 1). -/
def State.withFetchWord (s : State) (nbits w : Nat) : State :=
  { s with inputs := .command (BitVec.ofNat 168 (w % 2 ^ nbits)) :: s.inputs }

end Sys2Proof.Machine
end

