-- ==== Sys2Proof/Machine/Assembly.lean ====
section
/-!
DEFINITION. The textual form of commands (spec: 30_encoding.md R54). A text is a list of characters. What
R54 leaves open (blanks, letter case of digits, underscores in a number, an empty line) is log entry 12. No part of the block reads
text; this says which command words a listing stands for.
-/

namespace Sys2Proof.Machine

/-- The value of a hexadecimal digit. -/
def hexValue (c : Char) : Option Nat :=
  if '0'.toNat ≤ c.toNat ∧ c.toNat ≤ '9'.toNat then some (c.toNat - '0'.toNat)
  else if 'A'.toNat ≤ c.toNat ∧ c.toNat ≤ 'F'.toNat then some (c.toNat - 'A'.toNat + 10)
  else if 'a'.toNat ≤ c.toNat ∧ c.toNat ≤ 'f'.toNat then some (c.toNat - 'a'.toNat + 10)
  else none

/-- The digit of a value below 16, upper case. -/
def hexDigit (n : Nat) : Char :=
  if n < 10 then Char.ofNat ('0'.toNat + n) else Char.ofNat ('A'.toNat + (n - 10))

/-- The number of a list of digits in a base, no digit of which reaches the base. -/
def digitsValue (base : Nat) : Nat → List Char → Option Nat
  | acc, [] => some acc
  | acc, c :: rest =>
    match hexValue c with
    | some d => if d < base then digitsValue base (acc * base + d) rest else none
    | none => none

/-- `<n>`: "n decimal or 0x-hexadecimal, 0 <= n <= 4294967295" (R54). DESIGN CHOICE: a token with an
underscore, the digit separator of the spec's own notation (R7), is refused; R54 says only "decimal". Safe.
Log entry 12. -/
def parseNumber (token : List Char) : Option (BitVec 32) :=
  let value :=
    match token with
    | [] => none
    | '0' :: 'x' :: [] => none
    | '0' :: 'x' :: digits => digitsValue 16 0 digits
    | digits => digitsValue 10 0 digits
  match value with
  | some n => if n < 2 ^ 32 then some (BitVec.ofNat 32 n) else none
  | none => none

/-- `<b>`: a byte is "two hexadecimal digits" (R54). -/
def parseByte (token : List Char) : Option Byte :=
  match token with
  | [h, l] =>
    match hexValue h, hexValue l with
    | some a, some b => some (BitVec.ofNat 8 (a * 16 + b))
    | _, _ => none
  | _ => none

/-- All of a list of tokens as bytes. -/
def parseByteList : List (List Char) → Option (List Byte)
  | [] => some []
  | t :: rest =>
    match parseByte t, parseByteList rest with
    | some b, some bs => some (b :: bs)
    | _, _ => none

/-- A list of tokens as exactly `n` bytes. -/
def parseBytes (n : Nat) (tokens : List (List Char)) : Option (Vector Byte n) :=
  match parseByteList tokens with
  | some bytes => if h : bytes.length = n then some ⟨bytes.toArray, h⟩ else none
  | none => none

/-- The line without its comment: "`;` starts a comment" (R54). -/
def stripComment : List Char → List Char
  | [] => []
  | c :: rest => if c = ';' then [] else c :: stripComment rest

/-- The tokens of a line, separated by blanks; `current` is the token being read, last character first. -/
def tokensFrom (current : List Char) : List Char → List (List Char)
  | [] => if current = [] then [] else [current.reverse]
  | c :: rest =>
    if c = ' ' then
      if current = [] then tokensFrom [] rest else current.reverse :: tokensFrom [] rest
    else tokensFrom (c :: current) rest

/-- The tokens of a line, its comment left out. -/
def tokens (line : List Char) : List (List Char) := tokensFrom [] (stripComment line)

/-- The command of a mnemonic and its operands (R54). -/
def parseCommand (mnemonic : List Char) (operands : List (List Char)) : Option Instr :=
  if mnemonic = ['L', 'D', 'S', 'E', 'R'] then
    match operands with
    | [n] => (parseNumber n).map .ldser
    | _ => none
  else if mnemonic = ['C', 'K', 'S', 'U', 'M'] then (parseBytes 18 operands).map .cksum
  else if mnemonic = ['D', 'E', 'C', 'R', 'A', 'W'] then (parseBytes 18 operands).map .decraw
  else if mnemonic = ['D', 'E', 'C'] then (parseBytes 20 operands).map .dec
  else if mnemonic = ['P', 'W', 'R'] then
    match operands with
    | [n] => (parseNumber n).map .pwr
    | _ => none
  else none

/-- One line of a listing as the host's events: none for a line with no token, the reset event for
`RESET` ("not a command: it marks the reset event"), one command word for a command (R54). -/
def assembleLine (line : List Char) : Option (List HostEvent) :=
  match tokens line with
  | [] => some []
  | mnemonic :: operands =>
    if mnemonic = ['R', 'E', 'S', 'E', 'T'] ∧ operands = [] then some [.reset]
    else
      match parseCommand mnemonic operands with
      | some i => some [.command (encode i)]
      | none => none

/-- A listing, line by line: "One command per line" (R54). -/
def assemble : List (List Char) → Option (List HostEvent)
  | [] => some []
  | line :: rest =>
    match assembleLine line, assemble rest with
    | some es, some more => some (es ++ more)
    | _, _ => none

/-- A byte as a blank and two digits. -/
def printByte (b : Byte) : List Char := [' ', hexDigit (b.toNat / 16), hexDigit (b.toNat % 16)]

/-- A scalar as a blank, `0x` and eight digits. -/
def printNumber (n : BitVec 32) : List Char :=
  [' ', '0', 'x'] ++ (scalarBytes n).toList.flatMap fun b =>
    [hexDigit (b.toNat / 16), hexDigit (b.toNat % 16)]

/-- A command as a line (R54). -/
def printCommand : Instr → List Char
  | .ldser serial => ['L', 'D', 'S', 'E', 'R'] ++ printNumber serial
  | .cksum data => ['C', 'K', 'S', 'U', 'M'] ++ data.toList.flatMap printByte
  | .decraw data => ['D', 'E', 'C', 'R', 'A', 'W'] ++ data.toList.flatMap printByte
  | .dec data => ['D', 'E', 'C'] ++ data.toList.flatMap printByte
  | .pwr pulsesPerKwh => ['P', 'W', 'R'] ++ printNumber pulsesPerKwh

end Sys2Proof.Machine
end

