-- ==== Sys2Proof/Machine/Instances.lean ====
section
/-!
DEFINITION. Several blocks side by side (spec: 20_memory.md R44; 60_exceptions.md R114): `N_INSTANCES`
copies of the state, which share nothing. The number is an argument, at least 1 (R6, D17). Log entry 7.
-/

namespace Sys2Proof.Machine

/-- One block or more, each with its own registers and its own host link (R6, R44). -/
structure System where
  /-- The blocks. They have no identifier inside (R114); a host finds one by its place. -/
  blocks : List State
  /-- `N_INSTANCES` is "at least 1" (R6). -/
  atLeastOne : 1 ≤ blocks.length
deriving DecidableEq, Repr

/-- `N_INSTANCES = n` blocks right after reset; "start independently (each by its own reset and LDSER)"
(R6, R114). -/
def System.reset (n : Nat) (h : 1 ≤ n) : System :=
  ⟨List.replicate n State.reset, by simpa using h⟩

/-- The system with the state of block `k` replaced. -/
def System.put (sys : System) (k : Nat) (t : State) : System :=
  ⟨sys.blocks.set k t, by simpa using sys.atLeastOne⟩

/-- One step of block `k`; no other block takes part (R44). -/
def System.step (k : Nat) (sys : System) : Host.Outcome System Fault Refusal :=
  match sys.blocks[k]? with
  | none => .refused .noSuchInstance
  | some s =>
    match Sys2Proof.Machine.step s with
    | .next t => .next (sys.put k t)
    | .fault f => .fault f
    | .refused r => .refused r

end Sys2Proof.Machine
end

