-- ==== Sys2Proof/Machine/Pipeline.lean ====
section
/-!
DEFINITION. The streaming de-obfuscator, the "18-byte pipeline" (spec: 42_decode_raw.md R84): one possible
structure of the function of R75, with two counters that live inside one command and are no state (R24).
-/

namespace Sys2Proof.Machine

/-- The pipeline's two counters: the byte counter `i` and the keystream index `k` (R84). -/
structure PipelineCounters where
  /-- The byte counter, from 0 to 17. -/
  i : Nat
  /-- The keystream index, held at 0 while `i < 3`. -/
  k : Fin 5
deriving DecidableEq, Repr

/-- "Both counters start from 0 on every command" (R84). -/
def pipelineStart : PipelineCounters := ⟨0, 0⟩

/-- The counters after a byte: `k` steps 0, 1, 2, 3, 4, 0, ... "after each byte from `i = 3` on" (R84). -/
def pipelineNext (c : PipelineCounters) : PipelineCounters :=
  ⟨c.i + 1, if c.i < 3 then 0 else if c.k = 4 then 0 else c.k + 1⟩

/-- The byte the pipeline puts out for a byte it takes in (R84). -/
def pipelineByte (key : Keystream) (c : PipelineCounters) (b : Byte) : Byte :=
  if c.i < 3 then b else b ^^^ key[c.k]

/-- The bytes put out for the bytes taken in, in index order (R84). -/
def pipelineFrom (key : Keystream) : PipelineCounters → List Byte → List Byte
  | _, [] => []
  | c, b :: rest => pipelineByte key c b :: pipelineFrom key (pipelineNext c) rest

/-- The whole 18-byte pipeline on one payload (R84). -/
def pipeline (key : Keystream) (data : Payload) : List Byte := pipelineFrom key pipelineStart data.toList

end Sys2Proof.Machine
end

