-- ==== Sys2Proof/Safety.lean ====
section
/-!
DEFINITION. The terms claims are stated in: the state invariants (spec: 10_state.md R16), a run and what it
means for one to have gone wrong (60_exceptions.md R109; 70_reset_and_hazards.md R127), and the outcome of
a command.
-/

namespace Sys2Proof.Machine

/-- R16 item 1: a valid instance holds the keystream of its serial, whose first byte is 0x47. -/
abbrev State.InstanceInv (s : State) : Prop :=
  s.kvalid = true → s.key = derive s.serial ∧ s.key[0] = 0x47#8

/-- R16 items 2 and 3 (its first part): a valid record belongs to the valid instance, with no error. -/
abbrev State.RecordInv (s : State) : Prop :=
  s.rvalid = true → s.kvalid = true ∧ s.err = 0 ∧ s.record.serial.toNat = s.serial.toNat % 1000000 ∧
    s.record.serial.toNat < 1000000

/-- R16 item 4: no record, and the record registers are all zero. -/
abbrev State.NoRecordInv (s : State) : Prop := s.rvalid = false → s.record = Record.zero

/-- R16 item 5: `ERR` is one of 0, 1, 2, 3, 4. -/
abbrev State.ErrInv (s : State) : Prop := s.err.toNat ≤ 4

/-- The state invariants of R16 together. -/
abbrev State.Inv (s : State) : Prop :=
  s.InstanceInv ∧ s.RecordInv ∧ s.NoRecordInv ∧ s.ErrInv

/-- "A run has gone wrong exactly when `FAULT != 0` at its end" (R109, R127). -/
abbrev State.wentWrong (s : State) : Prop := s.fault ≠ 0

/-- A run: a reset state, a finite list of command words, each issued after the completion of the one
before; its outcome is the state when the last command completes (R127). -/
def runProgram (words : List CommandWord) : Host.Outcome State Fault Refusal :=
  Sys2Proof.core.run words.length (State.reset.issue (words.map .command))

/-- The host's events taken by the block one after another, in order, each from the state the one before
left (R41, R126, R127). -/
def acceptAll (hasPower : Bool) : List HostEvent → State → Host.Outcome State Fault Refusal
  | [], s => .next s
  | e :: rest, s =>
    match accept hasPower e s with
    | .next t => acceptAll hasPower rest t
    | .fault f => .fault f
    | .refused r => .refused r

/-- What a decode command returns to the host, "the pair (`ERR`, record)" with its valid bit (R23). -/
def State.decodeResult (s : State) : BitVec 3 × Bool × Record := (s.err, s.rvalid, s.record)

end Sys2Proof.Machine
end

