-- ==== Sys2Proof/Certificates/Slice0/Obligations.lean ====
section
/-!
DEFINITION. Statements for the provers. Each docstring cites the rule of spec/ it formalises; OBLIGATIONS.json
lists them. Where a statement says nothing of a field of the state, its record update keeps that field.
-/

open Sys2Proof Sys2Proof.Machine

/-! ### Encoding -/

/-- Decoding an encoded command gives the command back, with every operand at every value (R52). -/
def Obligations.DecodeOfEncode : Prop :=
  ∀ (hasPower : Bool) (i : Instr), i.wellFormed hasPower = true → decode hasPower (encode i) = .ok i

/-- Every legal word is the encoding of the command it decodes to, so two different legal words never decode
to the same command with the same operands (R52). -/
def Obligations.EncodeOfDecode : Prop :=
  ∀ (hasPower : Bool) (w : CommandWord) (i : Instr),
    decode hasPower w = .ok i → encode i = w ∧ i.wellFormed hasPower = true

/-- The three formats: which words are each command, and where each operand bit comes from (R47, R48, R49). -/
def Obligations.WordFormats : Prop :=
  ∀ (hasPower : Bool) (w : CommandWord),
    let op := w.extractLsb' 160 8
    (∀ n : BitVec 32, decode hasPower w = .ok (.ldser n) ↔
      op = 0x01#8 ∧ w.extractLsb' 0 128 = 0#128 ∧ n = w.extractLsb' 128 32) ∧
    (∀ n : BitVec 32, decode hasPower w = .ok (.pwr n) ↔
      hasPower = true ∧ op = 0x05#8 ∧ w.extractLsb' 0 128 = 0#128 ∧ n = w.extractLsb' 128 32) ∧
    (∀ d : Payload, decode hasPower w = .ok (.cksum d) ↔
      op = 0x02#8 ∧ w.extractLsb' 0 16 = 0#16 ∧
        ∀ (j : Nat) (_ : j < 18), d[j] = w.extractLsb' (152 - 8 * j) 8) ∧
    (∀ d : Payload, decode hasPower w = .ok (.decraw d) ↔
      op = 0x03#8 ∧ w.extractLsb' 0 16 = 0#16 ∧
        ∀ (j : Nat) (_ : j < 18), d[j] = w.extractLsb' (152 - 8 * j) 8) ∧
    (∀ d : Buffer, decode hasPower w = .ok (.dec d) ↔
      op = 0x04#8 ∧ ∀ (j : Nat) (_ : j < 20), d[j] = w.extractLsb' (152 - 8 * j) 8)

/-- The frame of 21 bytes and the word are the same thing, the opcode is `F[0]` and payload byte j is `F[j+1]`
(R46). How a byte string is read is the model's inference from R46 (log entry 10, DEDUCED): the first 21 bytes
are the word and the bytes after them are given back, and a shorter string is rejected as an incomplete word. -/
def Obligations.FrameView : Prop :=
  (∀ w : CommandWord, wordOfFrame (frameOfWord w) = w ∧
    (∀ (k : Nat) (_ : k < 21), (frameOfWord w)[k] = w.extractLsb' (160 - 8 * k) 8) ∧
    (frameOfWord w)[0] = opField w ∧
    (∀ (j : Nat) (_ : j < 20), (frameOfWord w)[j + 1] = payloadByte w j)) ∧
  (∀ f : Frame, frameOfWord (wordOfFrame f) = f) ∧
  (∀ (hasPower : Bool) (f : Frame) (rest : List Byte), decodeBytes hasPower (f.toList ++ rest) =
    (match decode hasPower (wordOfFrame f) with
      | .ok i => .ok (i, rest)
      | .error r => .error r)) ∧
  (∀ (hasPower : Bool) (bytes : List Byte), bytes.length < 21 →
    decodeBytes hasPower bytes = .error (.incompleteWord bytes.length))

/-- A reserved word raises IllegalCommand, cause 1, and changes no other state (R53). -/
def Obligations.ReservedWordsAreIllegal : Prop :=
  ∀ (hasPower : Bool) (w : CommandWord) (rest : List HostEvent) (s : State),
    s.inputs = .command w :: rest →
    (let op := w.extractLsb' 160 8
     op = 0x00#8 ∨ 0x06#8 ≤ op ∨ (op = 0x05#8 ∧ hasPower = false) ∨
      ((op = 0x01#8 ∨ op = 0x05#8) ∧ w.extractLsb' 0 128 ≠ 0#128) ∨
      ((op = 0x02#8 ∨ op = 0x03#8) ∧ w.extractLsb' 0 16 ≠ 0#16)) →
    takeEvent hasPower s = .next { s with
      inputs := rest, fault := s.fault ||| 1#5, completion := some (.faulted .illegalCommand) }

/-- The decoder accepts exactly the words of the opcode table's rows, each with its row's opcode, and no word
is an instance of two rows (opcode_table.json). -/
def Obligations.DecoderMatchesOpcodeTable : Prop :=
  ∀ (hasPower : Bool) (w : CommandWord),
    (∀ i, decode hasPower w = .ok i →
      ∃ r ∈ opcodeTable, r.accepts hasPower w = true ∧ r.op = i.opcode) ∧
    (∀ r ∈ opcodeTable, r.accepts hasPower w = true →
      ∃ i, decode hasPower w = .ok i ∧ i.opcode = r.op) ∧
    (∀ r ∈ opcodeTable, ∀ r' ∈ opcodeTable,
      r.accepts hasPower w = true → r'.accepts hasPower w = true → r = r')

/-- Words written out bit by bit from the spec's formats decode to the commands they stand for, and a word of
format S with a reserved bit set to none (R46, R47, R48, R49). -/
def Obligations.SampleWordsDecode : Prop :=
  decode true 0x0117E0244900000000000000000000000000000000#168 = .ok (.ldser 400565321) ∧
  decode true 0x031149240700000000000000000000000000000000#168 =
    .ok (.decraw #v[0x11, 0x49, 0x24, 0x07, 0, 0, 0, 0, 0, 0, 0, 0, 0, 0, 0, 0, 0, 0]) ∧
  decode true 0x0411492407000000000000000000000000000000FE#168 =
    .ok (.dec #v[0x11, 0x49, 0x24, 0x07, 0, 0, 0, 0, 0, 0, 0, 0, 0, 0, 0, 0, 0, 0, 0, 0xFE]) ∧
  decode true 0x05000003E800000000000000000000000000000000#168 = .ok (.pwr 1000) ∧
  decode true 0x0117E0244900000000000000000000000000000001#168 = .error (.reservedBits 0x01)

/-- An assembler line printed from a command assembles to that command's word (R54; the printed form is the
model's choice among R54's, log entry 12). -/
def Obligations.AssembleOfPrint : Prop :=
  ∀ i : Instr, assembleLine (printCommand i) = some [.command (encode i)]

/-! ### Steps, reset and runs -/

/-- A step with a command word that decodes to a well-formed command is `exec` of that command, on the state
from which the host's event has been taken off. -/
def Obligations.StepRunsDecodedCommand : Prop :=
  ∀ (w : CommandWord) (rest : List HostEvent) (i : Instr) (s : State),
    s.inputs = .command w :: rest → decode config.hasPower w = .ok i →
    step s = exec i { s with inputs := rest }

/-- After reset every register is zero (R26). -/
def Obligations.ResetValues : Prop :=
  State.reset.serial = 0 ∧ State.reset.key = #v[0, 0, 0, 0, 0] ∧ State.reset.kvalid = false ∧
  State.reset.record = ⟨0, 0, 0, 0, 0, 0⟩ ∧ State.reset.rvalid = false ∧ State.reset.err = 0 ∧
  State.reset.csum = 0 ∧ State.reset.power = 0 ∧ State.reset.fault = 0

/-- The reset event sets every register to zero, the block goes on with the host's next event, and no other
step clears `KVALID` or `FAULT` (R120). -/
def Obligations.ResetEvent : Prop :=
  (∀ (rest : List HostEvent) (s : State), s.inputs = .reset :: rest →
    ∃ t, step s = .next t ∧ t.inputs = rest ∧ t.serial = 0 ∧ t.key = #v[0, 0, 0, 0, 0] ∧
      t.kvalid = false ∧ t.record = ⟨0, 0, 0, 0, 0, 0⟩ ∧ t.rvalid = false ∧ t.err = 0 ∧ t.csum = 0 ∧
      t.power = 0 ∧ t.fault = 0) ∧
  ∀ s t : State, (∀ rest, s.inputs ≠ .reset :: rest) → step s = .next t →
    (s.kvalid = true → t.kvalid = true) ∧ (s.fault ≠ 0 → t.fault ≠ 0)

/-- With no event from the host the block is idle and its state survives (R113; that an idle step is a step at
all is the model's choice, log entry 3). -/
def Obligations.IdleKeepsState : Prop :=
  ∀ s : State, s.inputs = [] → step s = .next s

/-- No step faults or is refused. That every command completes is R107 and R125; that an idle step is a step,
and answers a next state, is the model's inference (log entry 3, DEDUCED), and so is that a command that raises
a fault answers a next state and nothing stops the machine (log entry 9, DEDUCED). -/
def Obligations.EveryStepCompletes : Prop :=
  ∀ s : State, ∃ t, step s = .next t

/-- From any state, k steps are the host's first k events taken by the block one after another, in order, each
with the effect it has on the state the one before left, and they end in a next state with the other events
still to come: the block drops, repeats and reorders none (R107, R126). The list of events is the model's own
field (log entry 1). -/
def Obligations.RunsFinish : Prop :=
  ∀ (s : State) (k : Nat), k ≤ s.inputs.length →
    ∃ t, Sys2Proof.core.run k s = .next t ∧ t.inputs = s.inputs.drop k ∧
      acceptAll config.hasPower (s.inputs.take k) { s with inputs := s.inputs.drop k } = .next t

/-- The state after the first events is the state before the next ones: running two lists of events in one go
is running the first and then, from where it ended, the second (R41, R127). -/
def Obligations.RunsCompose : Prop :=
  ∀ (s t : State) (first second : List HostEvent), s.inputs = [] →
    Sys2Proof.core.run first.length (s.issue first) = .next t →
    Sys2Proof.core.run (first.length + second.length) (s.issue (first ++ second)) =
      Sys2Proof.core.run second.length (t.issue second)

/-! ### LDSER and the keystream -/

/-- LDSER sets the instance to the serial and its keystream and clears the record, `RVALID` and `ERR`; `CSUM`,
`POWER` and `FAULT` are unchanged; a word with LDSER's opcode and a reserved bit set is no command (R67, R69,
R71). -/
def Obligations.LdserConstructs : Prop :=
  (∀ (hasPower : Bool) (w : CommandWord), w.extractLsb' 160 8 = 0x01#8 → w.extractLsb' 0 128 ≠ 0#128 →
    ∀ i, decode hasPower w ≠ .ok i) ∧
  ∀ (n : BitVec 32) (s : State),
    let base := n + 0x8AEF9335#32
    exec (.ldser n) s = .next { s with
      serial := n
      key := #v[0x47#8, base.extractLsb' 16 8, base.extractLsb' 24 8, base.extractLsb' 0 8,
        base.extractLsb' 8 8]
      kvalid := true
      record := ⟨0, 0, 0, 0, 0, 0⟩
      rvalid := false
      err := 0
      completion := some .ok }

/-- The base is the serial plus 0x8AEF9335 modulo 2^32, it wraps exactly from serial 0x75106CCB upward, and
the keystream's bytes put back together little-endian are the base (R68, R69; where the sum wraps is R68's own
inference). -/
def Obligations.BaseWraps : Prop :=
  ∀ n : BitVec 32,
    (obfuscationBase n).toNat = (n.toNat + 0x8AEF9335) % 2 ^ 32 ∧
    (2 ^ 32 ≤ n.toNat + 0x8AEF9335 ↔ 0x75106CCB ≤ n.toNat) ∧
    (obfuscationBase n).toNat = (derive n)[3].toNat + 2 ^ 8 * (derive n)[4].toNat +
      2 ^ 16 * (derive n)[1].toNat + 2 ^ 24 * (derive n)[2].toNat

/-- Two different serials have two different keystreams, and the first byte is always 0x47 (R70). -/
def Obligations.KeystreamInjective : Prop :=
  (∀ m n : BitVec 32, derive m = derive n → m = n) ∧ ∀ n : BitVec 32, (derive n)[0] = 0x47#8

/-- Only LDSER and the reset event change `SERIAL`, `KEY` or `KVALID` (R72). -/
def Obligations.OnlyLdserWritesInstance : Prop :=
  ∀ (s t : State) (w : CommandWord) (rest : List HostEvent),
    s.inputs = .command w :: rest → (∀ n, decode config.hasPower w ≠ .ok (.ldser n)) →
    step s = .next t → t.serial = s.serial ∧ t.key = s.key ∧ t.kvalid = s.kvalid

/-! ### CKSUM and the checksum engine -/

/-- CKSUM writes the checksum of its operand to `CSUM` and changes no other register; a word with CKSUM's
opcode and a reserved bit set is no command; the two corner values of R64 hold under D10. -/
def Obligations.CksumWritesCsum : Prop :=
  (∀ (hasPower : Bool) (w : CommandWord), w.extractLsb' 160 8 = 0x02#8 → w.extractLsb' 0 16 ≠ 0#16 →
    ∀ i, decode hasPower w ≠ .ok i) ∧
  (∀ (d : Payload) (s : State),
    exec (.cksum d) s = .next { s with csum := config.ck d, completion := some .ok }) ∧
  config.ck = crc16 ∧
  crc16 (Vector.replicate 18 0x00#8) = 0x8E27#16 ∧ crc16 (Vector.replicate 18 0xFF#8) = 0x020E#16

/-- The two values of the checksum the source gives (R61). -/
def Obligations.SourceChecksums : Prop :=
  config.ck #v[0x11, 0x49, 0x24, 0x07, 0x0E, 0xA2, 0x76, 0x17, 0x0E, 0xCF, 0x86, 0x91, 0x67, 0x47, 0xCF,
    0xA2, 0x77, 0xD3] = 0x6E2D#16 ∧
  config.ck #v[0x11, 0xE0, 0x2B, 0x07, 0x0E, 0xA2, 0x1D, 0x28, 0xA7, 0x80, 0x09, 0x12, 0xBE, 0x47, 0x8A,
    0x20, 0x5B, 0x14] = 0x6957#16

/-- The checksum is the remainder of the message as a polynomial over GF(2): the message times `x^16`, with
the initial value 0xFFFF added to its first 16 bits, differs from the checksum by a multiple of
`x^16 + x^15 + x^2 + 1` (R62; the algorithm is the spec's own choice, log entry 4). Bit `7 - r` of byte `q` is
the coefficient of `x^(143 - 8q - r)` of the message. -/
def Obligations.ChecksumIsPolynomialRemainder : Prop :=
  ∀ d : Payload,
    let poly := fun (n : Nat) (bit : Nat → Bool) =>
      ∑ i ∈ Finset.range n, if bit i then (Polynomial.X : Polynomial (ZMod 2)) ^ i else 0
    let message := poly 144 fun i => (d.toList.getD (17 - i / 8) 0#8).getLsbD (i % 8)
    let start := poly 16 fun i => (0xFFFF#16).getLsbD i
    let check := poly 16 fun i => (crc16 d).getLsbD i
    (Polynomial.X ^ 16 + Polynomial.X ^ 15 + Polynomial.X ^ 2 + 1 : Polynomial (ZMod 2)) ∣
      Polynomial.X ^ 16 * message + Polynomial.X ^ 144 * start + check

/-- The table-driven form computes the same checksum, and the table's entries are the eight-step results
(R63; under D10). -/
def Obligations.TableFormAgrees : Prop :=
  crcTable.length = 256 ∧
  (∀ n : Byte, crcTable.getD n.toNat 0 = crcShifts 8 (n ++ 0#8)) ∧
  ∀ d : Payload, crc16Table d = crc16 d

/-- The checksum is affine over GF(2) (R66 item 1; under D10). -/
def Obligations.ChecksumAffine : Prop :=
  ∀ a b c : Payload,
    crc16 (Vector.zipWith (· ^^^ ·) (Vector.zipWith (· ^^^ ·) a b) c) = crc16 a ^^^ crc16 b ^^^ crc16 c

/-- Flipping exactly one bit of the 18 bytes changes the checksum (R66 item 2; under D10). -/
def Obligations.ChecksumDetectsOneBit : Prop :=
  ∀ (d : Payload) (i : Fin 18) (j : Nat), j < 8 →
    crc16 (d.set i (d[i] ^^^ (1#8 <<< j))) ≠ crc16 d

/-- For fixed bytes 0 to 15, the last two bytes and the checksum determine each other (R66 item 3; under
D10). -/
def Obligations.ChecksumLastBytesBijective : Prop :=
  ∀ (d : Payload) (v : BitVec 16), ∃! ab : Byte × Byte, crc16 ((d.set 16 ab.1).set 17 ab.2) = v

/-! ### The packet operand, the de-obfuscator and the fields -/

/-- `MemRead` is big-endian on the raw bytes, at every offset and each of its widths (R33). -/
def Obligations.MemReadBigEndian : Prop :=
  ∀ (len : Nat) (data : Vector Byte len) (off : Nat),
    (∀ h : off + 1 ≤ len, memRead data off 1 h = data[off]) ∧
    (∀ h : off + 2 ≤ len, memRead data off 2 h = data[off] ++ data[off + 1]) ∧
    (∀ h : off + 4 ≤ len,
      memRead data off 4 h = data[off] ++ data[off + 1] ++ data[off + 2] ++ data[off + 3])

/-- The values of two and four bytes assembled big-endian (R32). -/
def Obligations.FieldAssembly : Prop :=
  (∀ a b : Byte, (be16 a b).toNat = a.toNat * 256 + b.toNat) ∧
  ∀ a b c d : Byte, (be32 a b c d).toNat =
    a.toNat * 2 ^ 24 + b.toNat * 2 ^ 16 + c.toNat * 2 ^ 8 + d.toNat

/-- Bytes 0 to 2 pass through, bytes 3 to 17 are XORed with the cycling keystream, and the unit is its own
inverse (R75). -/
def Obligations.PlainBytes : Prop :=
  ∀ (key : Keystream) (d : Payload),
    (∀ (i : Nat) (_ : i < 3), (deobfuscate key d)[i] = d[i]) ∧
    (∀ (i : Nat) (_ : 3 ≤ i) (_ : i < 18),
      (deobfuscate key d)[i] = d[i] ^^^ key[(i - 3) % 5]'(Nat.mod_lt _ (by decide))) ∧
    deobfuscate key (deobfuscate key d) = d

/-- The streaming pipeline with its two counters puts out the plain bytes (R84, R75). -/
def Obligations.PipelineComputesPlainBytes : Prop :=
  ∀ (key : Keystream) (d : Payload), pipeline key d = (deobfuscate key d).toList

/-- Under one keystream, every record is the fields of exactly one string of bytes 3 to 17 (R85 item 2). -/
def Obligations.FieldsBijective : Prop :=
  ∀ (key : Keystream) (r : Record) (b0 b1 b2 : Byte),
    ∃! d : Payload, (d[0] = b0 ∧ d[1] = b1 ∧ d[2] = b2) ∧ fieldsOf (deobfuscate key d) = r

/-! ### DECRAW -/

/-- DECRAW accepts a packet that passes its three checks: the six fields, written out with the key bytes, go
to the record registers, `RVALID` is 1 and `ERR` is 0 (R77, R80, R82). -/
def Obligations.DecrawAccepts : Prop :=
  ∀ (d : Payload) (s : State),
    let k := s.key
    let seq := (d[9] ^^^ k[1]) ++ (d[10] ^^^ k[2])
    let serialField := (d[5] ^^^ k[2]) ++ (d[6] ^^^ k[3]) ++ (d[7] ^^^ k[4]) ++ (d[8] ^^^ k[0])
    s.kvalid = true → d[0] = 17#8 → (seq.extractLsb' 0 7).setWidth 8 = d[2] →
    serialField.toNat = s.serial.toNat % 1000000 →
    exec (.decraw d) s = .next { s with
      record :=
        { seq := seq
          tbp := (d[11] ^^^ k[3]) ++ (d[12] ^^^ k[4])
          pulses := (d[13] ^^^ k[0]) ++ (d[14] ^^^ k[1]) ++ (d[15] ^^^ k[2]) ++ (d[16] ^^^ k[3])
          batt := d[17] ^^^ k[4]
          status := (d[3] ^^^ k[0]) ++ (d[4] ^^^ k[1])
          serial := serialField }
      rvalid := true
      err := 0
      completion := some .ok }

/-- DECRAW rejects a packet by the first check that fails: BadLength, BadPacketCount, BadSerial; the record is
cleared, `RVALID` is 0, `ERR` takes the code, and nothing else changes (R74, R78, R79, R81). -/
def Obligations.DecrawRejects : Prop :=
  ∀ (d : Payload) (s : State), s.kvalid = true →
    let k := s.key
    let seq := (d[9] ^^^ k[1]) ++ (d[10] ^^^ k[2])
    let serialField := (d[5] ^^^ k[2]) ++ (d[6] ^^^ k[3]) ++ (d[7] ^^^ k[4]) ++ (d[8] ^^^ k[0])
    let failed := fun code : BitVec 3 => Host.Outcome.next (φ := Fault) (ρ := Refusal)
      { s with record := ⟨0, 0, 0, 0, 0, 0⟩, rvalid := false, err := code, completion := some .ok }
    (d[0] ≠ 17#8 → exec (.decraw d) s = failed 2#3) ∧
    (d[0] = 17#8 → (seq.extractLsb' 0 7).setWidth 8 ≠ d[2] → exec (.decraw d) s = failed 3#3) ∧
    (d[0] = 17#8 → (seq.extractLsb' 0 7).setWidth 8 = d[2] →
      serialField.toNat ≠ s.serial.toNat % 1000000 → exec (.decraw d) s = failed 4#3)

/-- DECRAW and DEC without an instance raise NoKey, cause 2, whatever the operand, and change no other
register (R13). -/
def Obligations.DecodeWithoutKey : Prop :=
  ∀ s : State, s.kvalid = false →
    (∀ d : Payload, exec (.decraw d) s = .next { s with
      fault := s.fault ||| 2#5, completion := some (.faulted .noKey) }) ∧
    ∀ d : Buffer, exec (.dec d) s = .next { s with
      fault := s.fault ||| 2#5, completion := some (.faulted .noKey) }

/-- `data[1]` does not matter to DECRAW (R83). -/
def Obligations.DataByteOneIgnored : Prop :=
  ∀ (d : Payload) (b : Byte) (s : State), exec (.decraw (d.set 1 b)) s = exec (.decraw d) s

/-- The accepted payloads, exactly (R85 item 3). -/
def Obligations.AcceptedPayloads : Prop :=
  ∀ (d : Payload) (n : BitVec 32),
    (∃ r, rawDecode n (derive n) d = .ok r) ↔
      (d[0] = 17#8 ∧ d[2] = (d[10] ^^^ (derive n)[2]) &&& 0x7F#8 ∧
        ∃ digits : BitVec 32, digits.toNat = n.toNat % 1000000 ∧
          d[5] = digits.extractLsb' 24 8 ^^^ (derive n)[2] ∧
          d[6] = digits.extractLsb' 16 8 ^^^ (derive n)[3] ∧
          d[7] = digits.extractLsb' 8 8 ^^^ (derive n)[4] ∧
          d[8] = digits.extractLsb' 0 8 ^^^ (derive n)[0])

/-- A packet whose byte 2 has bit 7 set is never accepted, by DECRAW or DEC, under any instance (R78, R82). -/
def Obligations.EchoBitSevenRejected : Prop :=
  ∀ (s t : State),
    (∀ d : Payload, d[2].msb = true → s.kvalid = true → exec (.decraw d) s = .next t → t.rvalid = false) ∧
    ∀ d : Buffer, d[2].msb = true → s.kvalid = true → exec (.dec d) s = .next t → t.rvalid = false

/-- A wrong serial can be accepted: the packet of one serial decodes under another, to another record (R85 item
5, 90_conflicts.md C1). -/
def Obligations.WrongSerialAccepted : Prop :=
  let d : Payload := #v[0x11, 0x49, 0x24, 0x07, 0x0E, 0xA2, 0x76, 0x17, 0x0E, 0xCF, 0x86, 0x91, 0x67, 0x47,
    0xCF, 0xA2, 0x77, 0xD3]
  rawDecode 400565321 (derive 400565321) d =
    .ok { seq := 36, tbp := 61392, pulses := 9, batt := 100, status := 16577, serial := 565321 } ∧
  rawDecode 400524361 (derive 400524361) d =
    .ok { seq := 36, tbp := 61296, pulses := 9, batt := 196, status := 16577, serial := 524361 }

/-! ### DEC -/

/-- DEC accepts a buffer whose checksum and three checks pass: the record of bytes 0 to 17 goes to the record
registers (R87, R88, R89). `CSUM` is unchanged (R19). -/
def Obligations.DecAccepts : Prop :=
  ∀ (d : Buffer) (s : State),
    let k := s.key
    let seq := (d[9] ^^^ k[1]) ++ (d[10] ^^^ k[2])
    let serialField := (d[5] ^^^ k[2]) ++ (d[6] ^^^ k[3]) ++ (d[7] ^^^ k[4]) ++ (d[8] ^^^ k[0])
    s.kvalid = true → config.ck (payloadOf d) = d[18] ++ d[19] → d[0] = 17#8 →
    (seq.extractLsb' 0 7).setWidth 8 = d[2] → serialField.toNat = s.serial.toNat % 1000000 →
    exec (.dec d) s = .next { s with
      record :=
        { seq := seq
          tbp := (d[11] ^^^ k[3]) ++ (d[12] ^^^ k[4])
          pulses := (d[13] ^^^ k[0]) ++ (d[14] ^^^ k[1]) ++ (d[15] ^^^ k[2]) ++ (d[16] ^^^ k[3])
          batt := d[17] ^^^ k[4]
          status := (d[3] ^^^ k[0]) ++ (d[4] ^^^ k[1])
          serial := serialField }
      rvalid := true
      err := 0
      completion := some .ok }

/-- DEC rejects a buffer by the first check that fails, the checksum before the other three (R88, R102); the
effect is that of R81. It holds for any checksum function. -/
def Obligations.DecRejects : Prop :=
  ∀ (ck : Payload → BitVec 16) (d : Buffer) (s : State), s.kvalid = true →
    let k := s.key
    let seq := (d[9] ^^^ k[1]) ++ (d[10] ^^^ k[2])
    let serialField := (d[5] ^^^ k[2]) ++ (d[6] ^^^ k[3]) ++ (d[7] ^^^ k[4]) ++ (d[8] ^^^ k[0])
    let failed := fun code : BitVec 3 => Host.Outcome.next (φ := Fault) (ρ := Refusal)
      { s with record := ⟨0, 0, 0, 0, 0, 0⟩, rvalid := false, err := code, completion := some .ok }
    (ck (payloadOf d) ≠ d[18] ++ d[19] → decUnder ck d s = failed 1#3) ∧
    (ck (payloadOf d) = d[18] ++ d[19] → d[0] ≠ 17#8 → decUnder ck d s = failed 2#3) ∧
    (ck (payloadOf d) = d[18] ++ d[19] → d[0] = 17#8 → (seq.extractLsb' 0 7).setWidth 8 ≠ d[2] →
      decUnder ck d s = failed 3#3) ∧
    (ck (payloadOf d) = d[18] ++ d[19] → d[0] = 17#8 → (seq.extractLsb' 0 7).setWidth 8 = d[2] →
      serialField.toNat ≠ s.serial.toNat % 1000000 → decUnder ck d s = failed 4#3) ∧
    exec (.dec d) s = decUnder config.ck d s

/-- When the checksum passes, DEC leaves exactly the state DECRAW leaves, for any checksum function (R90). -/
def Obligations.DecAgreesWithDecraw : Prop :=
  ∀ (ck : Payload → BitVec 16) (d : Buffer) (p : Payload) (s : State),
    (∀ (j : Nat) (_ : j < 18), p[j] = d[j]) → ck p = d[18] ++ d[19] →
    decUnder ck d s = exec (.decraw p) s

/-- A correctly checksummed buffer whose two checksum bytes are changed in at least one bit gives BadCRC and no
other error, for any checksum function (R91). -/
def Obligations.ChangedChecksumIsBadCRC : Prop :=
  ∀ (ck : Payload → BitVec 16) (d : Buffer) (x y : Byte) (s : State), s.kvalid = true →
    ck (payloadOf d) = d[18] ++ d[19] → (x, y) ≠ (d[18], d[19]) →
    decUnder ck ((d.set 18 x).set 19 y) s = .next { s with
      record := ⟨0, 0, 0, 0, 0, 0⟩, rvalid := false, err := 1, completion := some .ok }

/-! ### PWR -/

/-- PWR on a valid record with a product in 1..2^32-1 writes the truncated quotient to `POWER` and nothing else
(R92, R93). -/
def Obligations.PwrCompletes : Prop :=
  ∀ (n : BitVec 32) (s : State), s.rvalid = true → 1 ≤ n.toNat * s.record.tbp.toNat →
    n.toNat * s.record.tbp.toNat ≤ 2 ^ 32 - 1 →
    exec (.pwr n) s = .next { s with
      power := BitVec.ofNat 32 (3686400000 / (n.toNat * s.record.tbp.toNat)), completion := some .ok }

/-- The value PWR writes is the truncated quotient as a number, not cut off by the register's width, with the
bounds R93 gives for it. -/
def Obligations.PwrValue : Prop :=
  ∀ (n : BitVec 32) (s t : State), exec (.pwr n) s = .next t → t.completion = some .ok →
    let d := n.toNat * s.record.tbp.toNat
    t.power.toNat * d ≤ 3686400000 ∧ 3686400000 < (t.power.toNat + 1) * d ∧
    (3686400000 < d → t.power = 0) ∧ (1843200001 ≤ d → d ≤ 3686400000 → t.power = 1)

/-- PWR without a record faults NoRecord; with a zero product DivideByZero; with a product of 2^32 or more
PowerOverflow; and changes no other register. The product is zero exactly when one of its factors is (R94), and
an operand of at most 65537 cannot overflow (R95's own inference). NoRecord is R98's, PowerOverflow R95's. -/
def Obligations.PwrFaults : Prop :=
  ∀ (n : BitVec 32) (s : State),
    (n.toNat * s.record.tbp.toNat = 0 ↔ n = 0 ∨ s.record.tbp = 0) ∧
    (n.toNat ≤ 65537 → n.toNat * s.record.tbp.toNat < 2 ^ 32) ∧
    (s.rvalid = false → exec (.pwr n) s = .next { s with
      fault := s.fault ||| 4#5, completion := some (.faulted .noRecord) }) ∧
    (s.rvalid = true → n.toNat * s.record.tbp.toNat = 0 → exec (.pwr n) s = .next { s with
      fault := s.fault ||| 8#5, completion := some (.faulted .divideByZero) }) ∧
    (s.rvalid = true → 2 ^ 32 ≤ n.toNat * s.record.tbp.toNat → exec (.pwr n) s = .next { s with
      fault := s.fault ||| 16#5, completion := some (.faulted .powerOverflow) })

/-- With an operand of at most 65537 no record makes PWR overflow, and 65538 is the least operand for which
some record does (R95). -/
def Obligations.PwrOverflowBound : Prop :=
  (∀ (n : BitVec 32) (s t : State), n.toNat ≤ 65537 → exec (.pwr n) s = .next t →
    t.completion ≠ some (.faulted .powerOverflow)) ∧
  ∀ n : BitVec 32, 65538 ≤ n.toNat → ∃ s t : State, exec (.pwr n) s = .next t ∧
    t.completion = some (.faulted .powerOverflow)

/-! ### Whole-machine rules -/

/-- Every command ends in one of three ways, which exclude each other by what they write: success, with the
result registers of the command written and no other (R23); a decode error (of DECRAW or DEC), with the record
cleared and `ERR` the code; a fault, with its bit of `FAULT` set and nothing else (R100). -/
def Obligations.ThreeEndings : Prop :=
  ∀ (i : Instr) (s : State), ∃ t, exec i s = .next t ∧
    ((match i with
        | .ldser n => t = { s with
            serial := n, key := derive n, kvalid := true, record := ⟨0, 0, 0, 0, 0, 0⟩, rvalid := false,
            err := 0, completion := some .ok }
        | .cksum d => t = { s with csum := config.ck d, completion := some .ok }
        | .decraw d => t = { s with
            record := fieldsOf (deobfuscate s.key d), rvalid := true, err := 0, completion := some .ok }
        | .dec d => t = { s with
            record := fieldsOf (deobfuscate s.key (payloadOf d)), rvalid := true, err := 0,
            completion := some .ok }
        | .pwr n => t = { s with
            power := powerQuotient (n.toNat * s.record.tbp.toNat), completion := some .ok }) ∨
      (((∃ d, i = .decraw d) ∨ (∃ d, i = .dec d)) ∧ ∃ k : ErrorKind,
        t = { s with record := ⟨0, 0, 0, 0, 0, 0⟩, rvalid := false, err := errCode k,
                     completion := some .ok }) ∨
      ∃ c : FaultCause,
        t = { s with fault := s.fault ||| (1#5 <<< (causeCode c - 1)), completion := some (.faulted c) })

/-- A command that faults sets its bit of `FAULT`, leaves its cause in the completion, and changes no other
register: it has no partial effect (R104). -/
def Obligations.FaultEntry : Prop :=
  ∀ (s t : State) (w : CommandWord) (rest : List HostEvent) (c : FaultCause),
    s.inputs = .command w :: rest → step s = .next t → t.completion = some (.faulted c) →
    t = { s with inputs := rest, fault := s.fault ||| (1#5 <<< (causeCode c - 1)),
                 completion := some (.faulted c) }

/-- When each fault is raised, exactly: IllegalCommand by a word that is no command, whatever the registers
hold; NoKey by a decode command before any of its checks, with neither `ERR` nor the record written; NoRecord
by PWR before it looks at the product; DivideByZero and PowerOverflow, which exclude each other (R105). -/
def Obligations.FaultOrder : Prop :=
  ∀ (s t : State) (w : CommandWord) (rest : List HostEvent),
    s.inputs = .command w :: rest → step s = .next t →
    (t.completion = some (.faulted .illegalCommand) ↔ ∀ i, decode config.hasPower w ≠ .ok i) ∧
    (t.completion = some (.faulted .noKey) ↔ s.kvalid = false ∧
      ((∃ d, decode config.hasPower w = .ok (.decraw d)) ∨ ∃ d, decode config.hasPower w = .ok (.dec d))) ∧
    (t.completion = some (.faulted .noKey) →
      t.err = s.err ∧ t.record = s.record ∧ t.rvalid = s.rvalid) ∧
    (t.completion = some (.faulted .noRecord) ↔
      s.rvalid = false ∧ ∃ n, decode config.hasPower w = .ok (.pwr n)) ∧
    (t.completion = some (.faulted .divideByZero) ↔ s.rvalid = true ∧
      ∃ n, decode config.hasPower w = .ok (.pwr n) ∧ n.toNat * s.record.tbp.toNat = 0) ∧
    (t.completion = some (.faulted .powerOverflow) ↔ s.rvalid = true ∧
      ∃ n, decode config.hasPower w = .ok (.pwr n) ∧ 2 ^ 32 ≤ n.toNat * s.record.tbp.toNat)

/-- A set bit of `FAULT` is cleared only by reset, which clears them all (R21, R109). -/
def Obligations.FaultBitsSticky : Prop :=
  ∀ (s t : State), step s = .next t →
    (∀ rest, s.inputs = .reset :: rest → t.fault = 0) ∧
    ((∀ rest, s.inputs ≠ .reset :: rest) →
      ∀ b < 5, s.fault.getLsbD b = true → t.fault.getLsbD b = true)

/-- No command reads `FAULT`: with other fault bits at its start, a command does the same to every other field
and sets the same bits (R21, R109). -/
def Obligations.FaultNotRead : Prop :=
  ∀ (i : Instr) (s t : State) (f : BitVec 5), exec i s = .next t →
    ∃ set : BitVec 5, t.fault = s.fault ||| set ∧
      exec i { s with fault := f } = .next { t with fault := f ||| set }

/-- After a decode command that does not fault, `RVALID` is 1 exactly when `ERR` is 0, and `ERR` is one of the
five codes (R18). -/
def Obligations.DecodeResultCode : Prop :=
  ∀ (i : Instr) (s t : State), ((∃ d, i = .decraw d) ∨ ∃ d, i = .dec d) →
    exec i s = .next t → t.completion = some .ok →
    (t.rvalid = true ↔ t.err = 0) ∧ t.err.toNat ≤ 4 ∧ (∀ d, i = .decraw d → t.err ≠ 1)

/-- What a decode command returns depends on `SERIAL`, `KEY` and its operand only, not on the registers' other
contents (R23, R101). -/
def Obligations.DecodeReadsInstanceOnly : Prop :=
  ∀ (i : Instr) (s s' t t' : State), ((∃ d, i = .decraw d) ∨ ∃ d, i = .dec d) →
    s.kvalid = true → s'.kvalid = true → s.serial = s'.serial → s.key = s'.key →
    exec i s = .next t → exec i s' = .next t' → t.decodeResult = t'.decodeResult

/-- Decode commands on one instance do not disturb each other: after any other decode command, a decode command
returns what it would have returned alone (R44). -/
def Obligations.DecodesIndependent : Prop :=
  ∀ (i j : Instr) (s u t t' : State), ((∃ d, i = .decraw d) ∨ ∃ d, i = .dec d) →
    ((∃ d, j = .decraw d) ∨ ∃ d, j = .dec d) → s.kvalid = true →
    exec j s = .next u → exec i u = .next t → exec i s = .next t' → t.decodeResult = t'.decodeResult

/-- What each command leaves unchanged (R23). -/
def Obligations.CommandFrames : Prop :=
  ∀ (i : Instr) (s t : State), exec i s = .next t →
    t.inputs = s.inputs ∧
    (match i with
      | .ldser _ => t.csum = s.csum ∧ t.power = s.power ∧ t.fault = s.fault
      | .cksum _ => t.serial = s.serial ∧ t.key = s.key ∧ t.kvalid = s.kvalid ∧ t.record = s.record ∧
          t.rvalid = s.rvalid ∧ t.err = s.err ∧ t.power = s.power ∧ t.fault = s.fault
      | .decraw _ => t.serial = s.serial ∧ t.key = s.key ∧ t.kvalid = s.kvalid ∧ t.csum = s.csum ∧
          t.power = s.power ∧ (t.completion = some .ok → t.fault = s.fault) ∧
          (s.kvalid = false → t.record = s.record ∧ t.rvalid = s.rvalid ∧ t.err = s.err)
      | .dec _ => t.serial = s.serial ∧ t.key = s.key ∧ t.kvalid = s.kvalid ∧ t.csum = s.csum ∧
          t.power = s.power ∧ (t.completion = some .ok → t.fault = s.fault) ∧
          (s.kvalid = false → t.record = s.record ∧ t.rvalid = s.rvalid ∧ t.err = s.err)
      | .pwr _ => t.serial = s.serial ∧ t.key = s.key ∧ t.kvalid = s.kvalid ∧ t.record = s.record ∧
          t.rvalid = s.rvalid ∧ t.err = s.err ∧ t.csum = s.csum ∧
          (t.completion = some .ok → t.fault = s.fault) ∧
          (t.completion ≠ some .ok → t.power = s.power))

/-- The state invariants of R16 hold at reset. -/
def Obligations.ResetMeetsInvariants : Prop := State.reset.Inv

/-- Every step keeps the state invariants of R16: the keystream is the serial's, a valid record belongs to the
valid instance, an invalid one is all zero, and `ERR` is a code. -/
def Obligations.StepKeepsInvariants : Prop :=
  ∀ s t : State, s.Inv → step s = .next t → t.Inv

/-- A record that is valid after a decode command carries the sequence echo of the packet just decoded (R16
item 3). -/
def Obligations.RecordCarriesEcho : Prop :=
  ∀ (s t : State),
    (∀ d : Payload, s.kvalid = true → exec (.decraw d) s = .next t → t.rvalid = true →
      (t.record.seq.extractLsb' 0 7).setWidth 8 = d[2]) ∧
    ∀ d : Buffer, s.kvalid = true → exec (.dec d) s = .next t → t.rvalid = true →
      (t.record.seq.extractLsb' 0 7).setWidth 8 = d[2]

/-! ### Several blocks -/

/-- A step of one block is a step of that block alone: its state becomes what `step` gives, and every other
block's state is as before (R44). -/
def Obligations.InstancesShareNothing : Prop :=
  ∀ (k : Nat) (s : State) (sys : System), sys.blocks[k]? = some s →
    ∃ (t : State) (sys' : System), step s = .next t ∧ System.step k sys = .next sys' ∧
      sys'.blocks[k]? = some t ∧ sys'.blocks.length = sys.blocks.length ∧
      ∀ j, j ≠ k → sys'.blocks[j]? = sys.blocks[j]?

/-- Steps of two different blocks can be taken in either order (R44: no ordering exists between commands to
different instances). -/
def Obligations.InstancesCommute : Prop :=
  ∀ (j k : Nat) (sys a b : System), j ≠ k → System.step j sys = .next a → System.step k a = .next b →
    ∃ a', System.step k sys = .next a' ∧ System.step j a' = .next b
end

