-- ==== Sys2Proof/Laws/State.lean ====
section
/-!
SUPPORT. One lemma per field and register update: what the field holds after it. Later proofs rewrite with
these and do not unfold an update.
-/

namespace Sys2Proof.Machine

/-! ### State.complete -/

@[simp] theorem State.complete_serial (s : State) : s.complete.serial = s.serial := rfl
@[simp] theorem State.complete_key (s : State) : s.complete.key = s.key := rfl
@[simp] theorem State.complete_kvalid (s : State) : s.complete.kvalid = s.kvalid := rfl
@[simp] theorem State.complete_record (s : State) : s.complete.record = s.record := rfl
@[simp] theorem State.complete_rvalid (s : State) : s.complete.rvalid = s.rvalid := rfl
@[simp] theorem State.complete_err (s : State) : s.complete.err = s.err := rfl
@[simp] theorem State.complete_csum (s : State) : s.complete.csum = s.csum := rfl
@[simp] theorem State.complete_power (s : State) : s.complete.power = s.power := rfl
@[simp] theorem State.complete_fault (s : State) : s.complete.fault = s.fault := rfl
@[simp] theorem State.complete_completion (s : State) : s.complete.completion = some .ok := rfl
@[simp] theorem State.complete_inputs (s : State) : s.complete.inputs = s.inputs := rfl

/-! ### State.raise -/

@[simp] theorem State.raise_serial (s : State) (c : FaultCause) : (s.raise c).serial = s.serial := rfl
@[simp] theorem State.raise_key (s : State) (c : FaultCause) : (s.raise c).key = s.key := rfl
@[simp] theorem State.raise_kvalid (s : State) (c : FaultCause) : (s.raise c).kvalid = s.kvalid := rfl
@[simp] theorem State.raise_record (s : State) (c : FaultCause) : (s.raise c).record = s.record := rfl
@[simp] theorem State.raise_rvalid (s : State) (c : FaultCause) : (s.raise c).rvalid = s.rvalid := rfl
@[simp] theorem State.raise_err (s : State) (c : FaultCause) : (s.raise c).err = s.err := rfl
@[simp] theorem State.raise_csum (s : State) (c : FaultCause) : (s.raise c).csum = s.csum := rfl
@[simp] theorem State.raise_power (s : State) (c : FaultCause) : (s.raise c).power = s.power := rfl
@[simp] theorem State.raise_fault (s : State) (c : FaultCause) : (s.raise c).fault = s.fault ||| faultMask c := rfl
@[simp] theorem State.raise_completion (s : State) (c : FaultCause) : (s.raise c).completion = some (.faulted c) := rfl
@[simp] theorem State.raise_inputs (s : State) (c : FaultCause) : (s.raise c).inputs = s.inputs := rfl

/-! ### State.clearRecord -/

@[simp] theorem State.clearRecord_serial (s : State) : s.clearRecord.serial = s.serial := rfl
@[simp] theorem State.clearRecord_key (s : State) : s.clearRecord.key = s.key := rfl
@[simp] theorem State.clearRecord_kvalid (s : State) : s.clearRecord.kvalid = s.kvalid := rfl
@[simp] theorem State.clearRecord_record (s : State) : s.clearRecord.record = Record.zero := rfl
@[simp] theorem State.clearRecord_rvalid (s : State) : s.clearRecord.rvalid = false := rfl
@[simp] theorem State.clearRecord_err (s : State) : s.clearRecord.err = s.err := rfl
@[simp] theorem State.clearRecord_csum (s : State) : s.clearRecord.csum = s.csum := rfl
@[simp] theorem State.clearRecord_power (s : State) : s.clearRecord.power = s.power := rfl
@[simp] theorem State.clearRecord_fault (s : State) : s.clearRecord.fault = s.fault := rfl
@[simp] theorem State.clearRecord_completion (s : State) : s.clearRecord.completion = s.completion := rfl
@[simp] theorem State.clearRecord_inputs (s : State) : s.clearRecord.inputs = s.inputs := rfl

/-! ### State.failDecode -/

@[simp] theorem State.failDecode_serial (s : State) (k : ErrorKind) : (s.failDecode k).serial = s.serial := rfl
@[simp] theorem State.failDecode_key (s : State) (k : ErrorKind) : (s.failDecode k).key = s.key := rfl
@[simp] theorem State.failDecode_kvalid (s : State) (k : ErrorKind) : (s.failDecode k).kvalid = s.kvalid := rfl
@[simp] theorem State.failDecode_record (s : State) (k : ErrorKind) : (s.failDecode k).record = Record.zero := rfl
@[simp] theorem State.failDecode_rvalid (s : State) (k : ErrorKind) : (s.failDecode k).rvalid = false := rfl
@[simp] theorem State.failDecode_err (s : State) (k : ErrorKind) : (s.failDecode k).err = errCode k := rfl
@[simp] theorem State.failDecode_csum (s : State) (k : ErrorKind) : (s.failDecode k).csum = s.csum := rfl
@[simp] theorem State.failDecode_power (s : State) (k : ErrorKind) : (s.failDecode k).power = s.power := rfl
@[simp] theorem State.failDecode_fault (s : State) (k : ErrorKind) : (s.failDecode k).fault = s.fault := rfl
@[simp] theorem State.failDecode_completion (s : State) (k : ErrorKind) : (s.failDecode k).completion = some .ok := rfl
@[simp] theorem State.failDecode_inputs (s : State) (k : ErrorKind) : (s.failDecode k).inputs = s.inputs := rfl

/-! ### State.succeedDecode -/

@[simp] theorem State.succeedDecode_serial (s : State) (r : Record) : (s.succeedDecode r).serial = s.serial := rfl
@[simp] theorem State.succeedDecode_key (s : State) (r : Record) : (s.succeedDecode r).key = s.key := rfl
@[simp] theorem State.succeedDecode_kvalid (s : State) (r : Record) : (s.succeedDecode r).kvalid = s.kvalid := rfl
@[simp] theorem State.succeedDecode_record (s : State) (r : Record) : (s.succeedDecode r).record = r := rfl
@[simp] theorem State.succeedDecode_rvalid (s : State) (r : Record) : (s.succeedDecode r).rvalid = true := rfl
@[simp] theorem State.succeedDecode_err (s : State) (r : Record) : (s.succeedDecode r).err = errOk := rfl
@[simp] theorem State.succeedDecode_csum (s : State) (r : Record) : (s.succeedDecode r).csum = s.csum := rfl
@[simp] theorem State.succeedDecode_power (s : State) (r : Record) : (s.succeedDecode r).power = s.power := rfl
@[simp] theorem State.succeedDecode_fault (s : State) (r : Record) : (s.succeedDecode r).fault = s.fault := rfl
@[simp] theorem State.succeedDecode_completion (s : State) (r : Record) : (s.succeedDecode r).completion = some .ok := rfl
@[simp] theorem State.succeedDecode_inputs (s : State) (r : Record) : (s.succeedDecode r).inputs = s.inputs := rfl

/-! ### State.hostReset -/

@[simp] theorem State.hostReset_serial (s : State) : s.hostReset.serial = 0 := rfl
@[simp] theorem State.hostReset_key (s : State) : s.hostReset.key = #v[0, 0, 0, 0, 0] := rfl
@[simp] theorem State.hostReset_kvalid (s : State) : s.hostReset.kvalid = false := rfl
@[simp] theorem State.hostReset_record (s : State) : s.hostReset.record = Record.zero := rfl
@[simp] theorem State.hostReset_rvalid (s : State) : s.hostReset.rvalid = false := rfl
@[simp] theorem State.hostReset_err (s : State) : s.hostReset.err = 0 := rfl
@[simp] theorem State.hostReset_csum (s : State) : s.hostReset.csum = 0 := rfl
@[simp] theorem State.hostReset_power (s : State) : s.hostReset.power = 0 := rfl
@[simp] theorem State.hostReset_fault (s : State) : s.hostReset.fault = 0 := rfl
@[simp] theorem State.hostReset_completion (s : State) : s.hostReset.completion = none := rfl
@[simp] theorem State.hostReset_inputs (s : State) : s.hostReset.inputs = s.inputs := rfl

/-! ### State.loadInstance -/

@[simp] theorem State.loadInstance_serial (s : State) (n : BitVec 32) : (s.loadInstance n).serial = n := rfl
@[simp] theorem State.loadInstance_key (s : State) (n : BitVec 32) : (s.loadInstance n).key = derive n := rfl
@[simp] theorem State.loadInstance_kvalid (s : State) (n : BitVec 32) : (s.loadInstance n).kvalid = true := rfl
@[simp] theorem State.loadInstance_record (s : State) (n : BitVec 32) : (s.loadInstance n).record = s.record := rfl
@[simp] theorem State.loadInstance_rvalid (s : State) (n : BitVec 32) : (s.loadInstance n).rvalid = s.rvalid := rfl
@[simp] theorem State.loadInstance_err (s : State) (n : BitVec 32) : (s.loadInstance n).err = s.err := rfl
@[simp] theorem State.loadInstance_csum (s : State) (n : BitVec 32) : (s.loadInstance n).csum = s.csum := rfl
@[simp] theorem State.loadInstance_power (s : State) (n : BitVec 32) : (s.loadInstance n).power = s.power := rfl
@[simp] theorem State.loadInstance_fault (s : State) (n : BitVec 32) : (s.loadInstance n).fault = s.fault := rfl
@[simp] theorem State.loadInstance_completion (s : State) (n : BitVec 32) : (s.loadInstance n).completion = s.completion := rfl
@[simp] theorem State.loadInstance_inputs (s : State) (n : BitVec 32) : (s.loadInstance n).inputs = s.inputs := rfl

/-! ### State.putChecksum -/

@[simp] theorem State.putChecksum_serial (s : State) (ck : Payload → BitVec 16) (d : Payload) : (s.putChecksum ck d).serial = s.serial := rfl
@[simp] theorem State.putChecksum_key (s : State) (ck : Payload → BitVec 16) (d : Payload) : (s.putChecksum ck d).key = s.key := rfl
@[simp] theorem State.putChecksum_kvalid (s : State) (ck : Payload → BitVec 16) (d : Payload) : (s.putChecksum ck d).kvalid = s.kvalid := rfl
@[simp] theorem State.putChecksum_record (s : State) (ck : Payload → BitVec 16) (d : Payload) : (s.putChecksum ck d).record = s.record := rfl
@[simp] theorem State.putChecksum_rvalid (s : State) (ck : Payload → BitVec 16) (d : Payload) : (s.putChecksum ck d).rvalid = s.rvalid := rfl
@[simp] theorem State.putChecksum_err (s : State) (ck : Payload → BitVec 16) (d : Payload) : (s.putChecksum ck d).err = s.err := rfl
@[simp] theorem State.putChecksum_csum (s : State) (ck : Payload → BitVec 16) (d : Payload) : (s.putChecksum ck d).csum = ck d := rfl
@[simp] theorem State.putChecksum_power (s : State) (ck : Payload → BitVec 16) (d : Payload) : (s.putChecksum ck d).power = s.power := rfl
@[simp] theorem State.putChecksum_fault (s : State) (ck : Payload → BitVec 16) (d : Payload) : (s.putChecksum ck d).fault = s.fault := rfl
@[simp] theorem State.putChecksum_completion (s : State) (ck : Payload → BitVec 16) (d : Payload) : (s.putChecksum ck d).completion = some .ok := rfl
@[simp] theorem State.putChecksum_inputs (s : State) (ck : Payload → BitVec 16) (d : Payload) : (s.putChecksum ck d).inputs = s.inputs := rfl

/-! ### State.putPower -/

@[simp] theorem State.putPower_serial (s : State) (v : BitVec 32) : (s.putPower v).serial = s.serial := rfl
@[simp] theorem State.putPower_key (s : State) (v : BitVec 32) : (s.putPower v).key = s.key := rfl
@[simp] theorem State.putPower_kvalid (s : State) (v : BitVec 32) : (s.putPower v).kvalid = s.kvalid := rfl
@[simp] theorem State.putPower_record (s : State) (v : BitVec 32) : (s.putPower v).record = s.record := rfl
@[simp] theorem State.putPower_rvalid (s : State) (v : BitVec 32) : (s.putPower v).rvalid = s.rvalid := rfl
@[simp] theorem State.putPower_err (s : State) (v : BitVec 32) : (s.putPower v).err = s.err := rfl
@[simp] theorem State.putPower_csum (s : State) (v : BitVec 32) : (s.putPower v).csum = s.csum := rfl
@[simp] theorem State.putPower_power (s : State) (v : BitVec 32) : (s.putPower v).power = v := rfl
@[simp] theorem State.putPower_fault (s : State) (v : BitVec 32) : (s.putPower v).fault = s.fault := rfl
@[simp] theorem State.putPower_completion (s : State) (v : BitVec 32) : (s.putPower v).completion = some .ok := rfl
@[simp] theorem State.putPower_inputs (s : State) (v : BitVec 32) : (s.putPower v).inputs = s.inputs := rfl

/-! ### State.issue -/

@[simp] theorem State.issue_serial (s : State) (es : List HostEvent) : (s.issue es).serial = s.serial := rfl
@[simp] theorem State.issue_key (s : State) (es : List HostEvent) : (s.issue es).key = s.key := rfl
@[simp] theorem State.issue_kvalid (s : State) (es : List HostEvent) : (s.issue es).kvalid = s.kvalid := rfl
@[simp] theorem State.issue_record (s : State) (es : List HostEvent) : (s.issue es).record = s.record := rfl
@[simp] theorem State.issue_rvalid (s : State) (es : List HostEvent) : (s.issue es).rvalid = s.rvalid := rfl
@[simp] theorem State.issue_err (s : State) (es : List HostEvent) : (s.issue es).err = s.err := rfl
@[simp] theorem State.issue_csum (s : State) (es : List HostEvent) : (s.issue es).csum = s.csum := rfl
@[simp] theorem State.issue_power (s : State) (es : List HostEvent) : (s.issue es).power = s.power := rfl
@[simp] theorem State.issue_fault (s : State) (es : List HostEvent) : (s.issue es).fault = s.fault := rfl
@[simp] theorem State.issue_completion (s : State) (es : List HostEvent) : (s.issue es).completion = s.completion := rfl
@[simp] theorem State.issue_inputs (s : State) (es : List HostEvent) : (s.issue es).inputs = s.inputs ++ es := rfl

/-! ### State.finishDecode -/

@[simp] theorem State.finishDecode_serial (s : State) (r : Except ErrorKind Record) :
    (s.finishDecode r).serial = s.serial := by cases r <;> rfl
@[simp] theorem State.finishDecode_key (s : State) (r : Except ErrorKind Record) :
    (s.finishDecode r).key = s.key := by cases r <;> rfl
@[simp] theorem State.finishDecode_kvalid (s : State) (r : Except ErrorKind Record) :
    (s.finishDecode r).kvalid = s.kvalid := by cases r <;> rfl
@[simp] theorem State.finishDecode_csum (s : State) (r : Except ErrorKind Record) :
    (s.finishDecode r).csum = s.csum := by cases r <;> rfl
@[simp] theorem State.finishDecode_power (s : State) (r : Except ErrorKind Record) :
    (s.finishDecode r).power = s.power := by cases r <;> rfl
@[simp] theorem State.finishDecode_fault (s : State) (r : Except ErrorKind Record) :
    (s.finishDecode r).fault = s.fault := by cases r <;> rfl
@[simp] theorem State.finishDecode_inputs (s : State) (r : Except ErrorKind Record) :
    (s.finishDecode r).inputs = s.inputs := by cases r <;> rfl
@[simp] theorem State.finishDecode_completion (s : State) (r : Except ErrorKind Record) :
    (s.finishDecode r).completion = some .ok := by cases r <;> rfl
@[simp] theorem State.finishDecode_ok (s : State) (r : Record) :
    s.finishDecode (.ok r) = s.succeedDecode r := rfl
@[simp] theorem State.finishDecode_error (s : State) (k : ErrorKind) :
    s.finishDecode (.error k) = s.failDecode k := rfl

end Sys2Proof.Machine
end

