-- ==== Sys2Proof/Laws/Commands.lean ====
section
/-!
SUPPORT. What each shared operation and each command can do, said once: later proofs cite these and do not
unfold the operation.
-/

namespace Sys2Proof.Machine

/-! ### The validator -/

theorem lengthOk_iff (d : Payload) : lengthOk d = true ↔ d[0] = 17#8 := beq_iff_eq

theorem echoOk_iff (seq : BitVec 16) (echo : Byte) :
    echoOk seq echo = true ↔ (seq.extractLsb' 0 7).setWidth 8 = echo := beq_iff_eq

theorem lowSixDigits_toNat (serial : BitVec 32) :
    (lowSixDigits serial).toNat = serial.toNat % 1000000 := by
  simp only [lowSixDigits, BitVec.toNat_ofNat]
  omega

theorem serialOk_iff (field serial : BitVec 32) :
    serialOk field serial = true ↔ field.toNat = serial.toNat % 1000000 := by
  rw [serialOk, beq_iff_eq, ← lowSixDigits_toNat, BitVec.toNat_inj]

/-! ### Raw and checked decode -/

/-- A raw decode succeeds exactly when its three checks hold, and then gives the fields of the plain bytes. -/
theorem rawDecode_ok_iff (serial : BitVec 32) (key : Keystream) (d : Payload) (r : Record) :
    rawDecode serial key d = .ok r ↔
      lengthOk d = true ∧ echoOk (fieldsOf (deobfuscate key d)).seq d[2] = true ∧
        serialOk (fieldsOf (deobfuscate key d)).serial serial = true ∧
        r = fieldsOf (deobfuscate key d) := by
  unfold rawDecode
  dsimp only
  split_ifs with h1 h2 h3
  · simp only [Except.ok.injEq, h1, h2, h3, true_and]
    exact eq_comm
  all_goals simp_all

/-- A raw decode never reports BadCRC (R82). -/
theorem rawDecode_ne_badCRC (serial : BitVec 32) (key : Keystream) (d : Payload) :
    rawDecode serial key d ≠ .error .badCRC := by
  unfold rawDecode
  dsimp only
  split_ifs <;> simp

/-- A checked decode is a raw decode of the payload when the checksum holds, and BadCRC when not. -/
theorem checkedDecode_eq (ck : Payload → BitVec 16) (serial : BitVec 32) (key : Keystream) (d : Buffer) :
    checkedDecode ck serial key d =
      if checksumOk ck d = true then rawDecode serial key (payloadOf d) else .error .badCRC := rfl

/-! ### The commands -/

theorem decodeCommand_valid (f : BitVec 32 → Keystream → Except ErrorKind Record) {s : State}
    (h : s.kvalid = true) : decodeCommand f s = .next (s.finishDecode (f s.serial s.key)) := if_pos h

theorem decodeCommand_noKey (f : BitVec 32 → Keystream → Except ErrorKind Record) {s : State}
    (h : s.kvalid = false) : decodeCommand f s = .next (s.raise .noKey) := if_neg (by simp [h])

/-- A decode command that answers a next state ended its decode or raised NoKey. -/
theorem decodeCommand_cases {f : BitVec 32 → Keystream → Except ErrorKind Record} {s t : State}
    (h : decodeCommand f s = .next t) :
    (s.kvalid = true ∧ t = s.finishDecode (f s.serial s.key)) ∨ (s.kvalid = false ∧ t = s.raise .noKey) := by
  cases hk : s.kvalid
  · rw [decodeCommand_noKey f hk] at h
    exact .inr ⟨rfl, by injection h with h; exact h.symm⟩
  · rw [decodeCommand_valid f hk] at h
    exact .inl ⟨rfl, by injection h with h; exact h.symm⟩

theorem exec_ldser (n : BitVec 32) (s : State) :
    exec (.ldser n) s = .next { ((s.loadInstance n).clearRecord.complete) with err := errOk } := rfl

theorem exec_cksum (d : Payload) (s : State) :
    exec (.cksum d) s = .next (s.putChecksum config.ck d) := rfl

theorem exec_decraw (d : Payload) (s : State) :
    exec (.decraw d) s = decodeCommand (fun serial key => rawDecode serial key d) s := rfl

theorem exec_dec (d : Buffer) (s : State) : exec (.dec d) s =
    decodeCommand (fun serial key => checkedDecode config.ck serial key d) s := rfl

/-- PWR's four ways to end (R92). -/
theorem exec_pwr_cases {n : BitVec 32} {s t : State} (h : exec (.pwr n) s = .next t) :
    (s.rvalid = false ∧ t = s.raise .noRecord) ∨
    (s.rvalid = true ∧ n.toNat * s.record.tbp.toNat = 0 ∧ t = s.raise .divideByZero) ∨
    (s.rvalid = true ∧ 2 ^ 32 ≤ n.toNat * s.record.tbp.toNat ∧ t = s.raise .powerOverflow) ∨
    (s.rvalid = true ∧ 0 < n.toNat * s.record.tbp.toNat ∧ n.toNat * s.record.tbp.toNat < 2 ^ 32 ∧
      t = s.putPower (powerQuotient (n.toNat * s.record.tbp.toNat))) := by
  change execPwr n s = .next t at h
  unfold execPwr powerDivisor at h
  dsimp only at h
  split_ifs at h with hr h0 h32 <;> injection h with h <;> subst h
  · exact .inr (.inl ⟨hr, h0, rfl⟩)
  · exact .inr (.inr (.inl ⟨hr, h32, rfl⟩))
  · exact .inr (.inr (.inr ⟨hr, Nat.pos_of_ne_zero h0, Nat.lt_of_not_le h32, rfl⟩))
  · exact .inl ⟨by simpa using hr, rfl⟩

theorem exec_dec_under (d : Buffer) (s : State) : exec (.dec d) s = decUnder config.ck d s := rfl

theorem decUnder_eq (ck : Payload → BitVec 16) (d : Buffer) (s : State) :
    decUnder ck d s = decodeCommand (fun serial key => checkedDecode ck serial key d) s := rfl

theorem exec_pwr_next (n : BitVec 32) (s : State) : ∃ t, exec (.pwr n) s = .next t := by
  simp only [exec, execPwr]
  split_ifs <;> exact ⟨_, rfl⟩

/-- Every command answers a next state (R107). -/
theorem exec_next (i : Instr) (s : State) : ∃ t, exec i s = .next t := by
  cases i with
  | ldser n => exact ⟨_, exec_ldser n s⟩
  | cksum d => exact ⟨_, exec_cksum d s⟩
  | decraw d =>
    rw [exec_decraw]
    cases hk : s.kvalid
    · exact ⟨_, decodeCommand_noKey _ hk⟩
    · exact ⟨_, decodeCommand_valid _ hk⟩
  | dec d =>
    rw [exec_dec]
    cases hk : s.kvalid
    · exact ⟨_, decodeCommand_noKey _ hk⟩
    · exact ⟨_, decodeCommand_valid _ hk⟩
  | pwr n => exact exec_pwr_next n s

/-- The decode a decode command runs on an instance. -/
abbrev Decodes (i : Instr) (s : State) (r : Except ErrorKind Record) : Prop :=
  (∃ d, i = .decraw d ∧ r = rawDecode s.serial s.key d) ∨
  (∃ d, i = .dec d ∧ r = checkedDecode config.ck s.serial s.key d)

/-- When a command raises a fault (R103). -/
abbrev Raises (i : Instr) (s : State) (c : FaultCause) : Prop :=
  (c = .noKey ∧ s.kvalid = false ∧ ((∃ d, i = .decraw d) ∨ ∃ d, i = .dec d)) ∨
  (∃ n, i = .pwr n ∧ ((c = .noRecord ∧ s.rvalid = false) ∨
    (c = .divideByZero ∧ s.rvalid = true ∧ n.toNat * s.record.tbp.toNat = 0) ∨
    (c = .powerOverflow ∧ s.rvalid = true ∧ 2 ^ 32 ≤ n.toNat * s.record.tbp.toNat)))

/-- Everything a command can do: each command's own effect, the end of a decode, or a fault. -/
theorem exec_cases {i : Instr} {s t : State} (h : exec i s = .next t) :
    (∃ n, i = .ldser n ∧ t = { ((s.loadInstance n).clearRecord.complete) with err := errOk }) ∨
    (∃ d, i = .cksum d ∧ t = s.putChecksum config.ck d) ∨
    (∃ r, Decodes i s r ∧ s.kvalid = true ∧ t = s.finishDecode r) ∨
    (∃ n, i = .pwr n ∧ s.rvalid = true ∧ 0 < n.toNat * s.record.tbp.toNat ∧
      n.toNat * s.record.tbp.toNat < 2 ^ 32 ∧
      t = s.putPower (powerQuotient (n.toNat * s.record.tbp.toNat))) ∨
    (∃ c, t = s.raise c ∧ Raises i s c) := by
  cases i with
  | ldser n => rw [exec_ldser] at h; injection h with h; exact .inl ⟨n, rfl, h.symm⟩
  | cksum d => rw [exec_cksum] at h; injection h with h; exact .inr (.inl ⟨d, rfl, h.symm⟩)
  | decraw d =>
    rw [exec_decraw] at h
    rcases decodeCommand_cases h with ⟨hk, ht⟩ | ⟨hk, ht⟩
    · exact .inr (.inr (.inl ⟨_, .inl ⟨d, rfl, rfl⟩, hk, ht⟩))
    · exact .inr (.inr (.inr (.inr ⟨_, ht, .inl ⟨rfl, hk, .inl ⟨d, rfl⟩⟩⟩)))
  | dec d =>
    rw [exec_dec] at h
    rcases decodeCommand_cases h with ⟨hk, ht⟩ | ⟨hk, ht⟩
    · exact .inr (.inr (.inl ⟨_, .inr ⟨d, rfl, rfl⟩, hk, ht⟩))
    · exact .inr (.inr (.inr (.inr ⟨_, ht, .inl ⟨rfl, hk, .inr ⟨d, rfl⟩⟩⟩)))
  | pwr n =>
    rcases exec_pwr_cases h with ⟨hr, ht⟩ | ⟨hr, h0, ht⟩ | ⟨hr, h32, ht⟩ | ⟨hr, h0, h32, ht⟩
    · exact .inr (.inr (.inr (.inr ⟨_, ht, .inr ⟨n, rfl, .inl ⟨rfl, hr⟩⟩⟩)))
    · exact .inr (.inr (.inr (.inr ⟨_, ht, .inr ⟨n, rfl, .inr (.inl ⟨rfl, hr, h0⟩)⟩⟩)))
    · exact .inr (.inr (.inr (.inr ⟨_, ht, .inr ⟨n, rfl, .inr (.inr ⟨rfl, hr, h32⟩)⟩⟩)))
    · exact .inr (.inr (.inr (.inl ⟨n, rfl, hr, h0, h32, ht⟩)))

/-! ### Events of the host -/

theorem step_idle {s : State} (h : s.inputs = []) : step s = .next s := by
  unfold step takeEvent; rw [h]

theorem step_event {s : State} {e : HostEvent} {rest : List HostEvent} (h : s.inputs = e :: rest) :
    step s = accept config.hasPower e { s with inputs := rest } := by
  unfold step takeEvent; rw [h]

theorem acceptWord_ok {p : Bool} {w : CommandWord} {i : Instr} (s : State) (h : decode p w = .ok i) :
    acceptWord p w s = exec i s := by
  unfold acceptWord; rw [h]

theorem acceptWord_error {p : Bool} {w : CommandWord} {r : DecodeReject} (s : State)
    (h : decode p w = .error r) : acceptWord p w s = .next (s.raise .illegalCommand) := by
  unfold acceptWord; rw [h]

/-- A step with a command word runs the command it decodes to or raises IllegalCommand. -/
theorem step_command_cases {s t : State} {w : CommandWord} {rest : List HostEvent}
    (hs : s.inputs = .command w :: rest) (h : step s = .next t) :
    (∃ i, decode config.hasPower w = .ok i ∧ exec i { s with inputs := rest } = .next t) ∨
    ((∀ i, decode config.hasPower w ≠ .ok i) ∧
      t = State.raise { s with inputs := rest } .illegalCommand) := by
  rw [step_event hs] at h
  cases hd : decode config.hasPower w with
  | ok i =>
    simp only [accept, acceptWord_ok _ hd] at h
    exact .inl ⟨i, rfl, h⟩
  | error r =>
    simp only [accept, acceptWord_error _ hd] at h
    injection h with h
    exact .inr ⟨by simp, h.symm⟩

end Sys2Proof.Machine
end

