-- ==== Sys2Proof/Laws/Encoding.lean ====
section
/-!
SUPPORT. Byte strings as big-endian numbers, and reading a byte back out of a word built from a frame.
-/

namespace Sys2Proof

/-- A 32-bit number is its four bytes, least significant first (R34). -/
theorem toNat_eq_littleEndian (b : BitVec 32) :
    b.toNat = (b.extractLsb' 0 8).toNat + 2 ^ 8 * (b.extractLsb' 8 8).toNat +
      2 ^ 16 * (b.extractLsb' 16 8).toNat + 2 ^ 24 * (b.extractLsb' 24 8).toNat := by
  simp only [BitVec.extractLsb'_toNat, Nat.shiftRight_eq_div_pow]
  have := b.isLt
  generalize b.toNat = m at *
  omega

theorem bigEndian_append (l : List Byte) (b : Byte) :
    bigEndian (l ++ [b]) = bigEndian l * 256 + b.toNat := by
  simp [bigEndian]

theorem bigEndian_lt (l : List Byte) : bigEndian l < 256 ^ l.length := by
  induction l using List.reverseRecOn with
  | nil => simp [bigEndian]
  | append_singleton l b ih =>
    rw [bigEndian_append, List.length_append, List.length_singleton, pow_succ]
    have := b.isLt
    omega

/-- The k-th byte of a big-endian number, counted from the front. -/
theorem bigEndian_byte (l : List Byte) (k : Nat) (h : k < l.length) :
    bigEndian l / 256 ^ (l.length - 1 - k) % 256 = l[k].toNat := by
  induction l using List.reverseRecOn generalizing k with
  | nil => simp at h
  | append_singleton l b ih =>
    have hb := b.isLt
    rw [bigEndian_append]
    by_cases hk : k < l.length
    · have e : (l ++ [b]).length - 1 - k = (l.length - 1 - k) + 1 := by simp; omega
      have e2 : (bigEndian l * 256 + b.toNat) / 256 = bigEndian l := by omega
      rw [e, pow_succ', ← Nat.div_div_eq_div_mul, e2, ih k hk, List.getElem_append_left hk]
    · have e : k = l.length := by simp at h; omega
      subst e
      simp
      omega

/-- A byte of a word built from a frame is the frame's byte (R46). -/
theorem frameByte_wordOfFrame (f : Frame) (k : Nat) (h : k < 21) : frameByte (wordOfFrame f) k = f[k] := by
  have hl : f.toList.length = 21 := by simp
  have hlt := bigEndian_lt f.toList
  rw [hl] at hlt
  have hb : bigEndian f.toList / 256 ^ (21 - 1 - k) % 256 = f[k].toNat := by
    have := bigEndian_byte f.toList k (by omega)
    simpa [hl] using this
  apply BitVec.eq_of_toNat_eq
  simp only [frameByte, wordOfFrame, BitVec.extractLsb'_toNat, BitVec.toNat_ofNat, Nat.shiftRight_eq_div_pow]
  rw [Nat.mod_eq_of_lt (lt_of_lt_of_eq hlt (by decide))]
  have e : 2 ^ (160 - 8 * k) = 256 ^ (21 - 1 - k) := by
    rw [show (256 : Nat) = 2 ^ 8 from rfl, ← pow_mul]
    congr 1
    omega
  rw [e, show 2 ^ 8 = 256 from rfl, hb]

theorem opField_wordOfFrame (f : Frame) : opField (wordOfFrame f) = f[0] :=
  frameByte_wordOfFrame f 0 (by decide)

theorem payloadByte_eq_frameByte (w : CommandWord) (j : Nat) : payloadByte w j = frameByte w (j + 1) := by
  unfold payloadByte frameByte
  congr 1
  omega

/-- A word is determined by the bytes of its frame. -/
theorem word_eq_of_frameByte {w w' : CommandWord}
    (h : ∀ k < 21, frameByte w k = frameByte w' k) : w = w' := by
  apply BitVec.eq_of_getLsbD_eq
  intro i hi
  have hb := congrArg (fun b => b.getLsbD (i % 8)) (h (20 - i / 8) (by omega))
  simp only [frameByte, BitVec.getLsbD_extractLsb'] at hb
  rw [show 160 - 8 * (20 - i / 8) + i % 8 = i by omega] at hb
  simpa [Nat.mod_lt] using hb

theorem frameByte_encode (i : Instr) (k : Nat) (h : k < 21) : frameByte (encode i) k = i.frame[k] :=
  frameByte_wordOfFrame _ _ h

/-- Payload byte j of an encoded command is its payload's byte j (R46). -/
theorem payloadByte_encode (i : Instr) (j : Nat) (h : j < 20) :
    payloadByte (encode i) j = i.payload[j] := by
  rw [payloadByte_eq_frameByte, frameByte_encode _ _ (by omega), Instr.frame, Vector.getElem_append]
  simp

theorem scalarBytes_getElem (n : BitVec 32) (j : Nat) (h : j < 4) :
    (scalarBytes n)[j] = n.extractLsb' (24 - 8 * j) 8 := by
  interval_cases j <;> rfl

/-- Everything the decoder can accept: the opcode is the command's, and its operand and reserved bits are
those of the command's format (R47 to R49, R52). -/
theorem decode_ok {p : Bool} {w : CommandWord} {i : Instr} (h : decode p w = .ok i) :
    i.wellFormed p = true ∧ opField w = i.opcode ∧
    (match i with
      | .ldser n => reservedS w = 0#128 ∧ n = imm32Field w
      | .cksum d => reservedB18 w = 0#16 ∧ d = data18 w
      | .decraw d => reservedB18 w = 0#16 ∧ d = data18 w
      | .dec d => d = data20 w
      | .pwr n => reservedS w = 0#128 ∧ n = imm32Field w) := by
  unfold decode at h
  dsimp only at h
  split_ifs at h <;> simp only [Except.ok.injEq] at h <;> subst h <;>
    simp_all [Instr.opcode, Instr.wellFormed]

/-- The opcode byte of an encoded command is its opcode (R45, R46). -/
theorem opField_encode (i : Instr) : opField (encode i) = i.opcode := by
  rw [encode, opField_wordOfFrame, Instr.frame, Vector.getElem_append]
  rfl

end Sys2Proof
end

