-- ==== Sys2Proof/Laws/Instances.lean ====
section
/-!
SUPPORT. A system with one block's state replaced, and a step of one block.
-/

namespace Sys2Proof.Machine

@[simp] theorem System.put_blocks (sys : System) (k : Nat) (t : State) :
    (sys.put k t).blocks = sys.blocks.set k t := rfl

/-- Two systems with the same blocks are the same. -/
theorem System.eq_of_blocks {a b : System} (h : a.blocks = b.blocks) : a = b := by
  cases a; cases b; cases h; rfl

/-- A step of a block that is there is that block's own step (R44). -/
theorem System.step_next {k : Nat} {sys : System} {s t : State} (hs : sys.blocks[k]? = some s)
    (ht : Sys2Proof.Machine.step s = .next t) : System.step k sys = .next (sys.put k t) := by
  unfold System.step
  simp only [hs, ht]

end Sys2Proof.Machine
end

