-- ==== Sys2Proof/Laws/PerInstr.lean ====
section
/-!
SUPPORT. Statements about every command as syntax, one lemma per constructor.
-/

namespace Sys2Proof.Laws

/-- The opcode byte of a command's word is the command's opcode (R45, R46). -/
def OpcodeByte.Statement (i : Instr) : Prop := (encode i).extractLsb' 160 8 = i.opcode

theorem OpcodeByte.ldser (serial : BitVec 32) : OpcodeByte.Statement (.ldser serial) := opField_encode _

theorem OpcodeByte.cksum (data : Payload) : OpcodeByte.Statement (.cksum data) := opField_encode _

theorem OpcodeByte.decraw (data : Payload) : OpcodeByte.Statement (.decraw data) := opField_encode _

theorem OpcodeByte.dec (data : Buffer) : OpcodeByte.Statement (.dec data) := opField_encode _

theorem OpcodeByte.pwr (pulsesPerKwh : BitVec 32) : OpcodeByte.Statement (.pwr pulsesPerKwh) :=
  opField_encode _

end Sys2Proof.Laws
end

