-- ==== Sys2Proof/Laws/Runs.lean ====
section
/-!
SUPPORT. Runs of several steps, one step at a time, and what an event has to do with the events after it.
-/

namespace Sys2Proof.Machine

/-- A run whose first step is known goes on from that step's state. -/
theorem host_run_succ (M : Host.Core) {s t : M.State} {k : Nat} (h : M.step s = .next t) :
    M.run (k + 1) s = M.run k t := by
  rw [Host.Core.run, h]

theorem core_run_zero (s : State) : Sys2Proof.core.run 0 s = .next s := rfl

theorem core_run_succ {s t : State} {k : Nat} (h : step s = .next t) :
    Sys2Proof.core.run (k + 1) s = Sys2Proof.core.run k t :=
  host_run_succ Sys2Proof.core h

/-- No command changes the host's events still to come. -/
theorem exec_inputs {i : Instr} {s t : State} (h : exec i s = .next t) : t.inputs = s.inputs := by
  rcases exec_cases h with ⟨n, _, rfl⟩ | ⟨d, _, rfl⟩ | ⟨r, _, _, rfl⟩ | ⟨n, _, _, _, _, rfl⟩ | ⟨c, rfl, _⟩ <;>
    simp

/-- No command reads the host's events still to come. -/
theorem exec_withInputs {i : Instr} {s t : State} (l : List HostEvent) (h : exec i s = .next t) :
    exec i { s with inputs := l } = .next { t with inputs := l } := by
  have decodes : ∀ f : BitVec 32 → Keystream → Except ErrorKind Record, decodeCommand f s = .next t →
      decodeCommand f { s with inputs := l } = .next { t with inputs := l } := by
    intro f h
    rcases decodeCommand_cases h with ⟨hk, rfl⟩ | ⟨hk, rfl⟩
    · refine (decodeCommand_valid (s := { s with inputs := l }) f hk).trans ?_
      dsimp only
      cases f s.serial s.key <;> rfl
    · exact decodeCommand_noKey f hk
  cases i with
  | ldser n => injection h with h; subst h; rfl
  | cksum d => injection h with h; subst h; rfl
  | decraw d => exact decodes (fun serial key => rawDecode serial key d) h
  | dec d => exact decodes (fun serial key => checkedDecode config.ck serial key d) h
  | pwr n =>
    simp only [exec, execPwr] at h ⊢
    split_ifs at h ⊢ <;> injection h with h <;> subst h <;> rfl

/-- Every event is answered by a next state, with the same events still to come (R107). -/
theorem accept_next (p : Bool) (e : HostEvent) (s : State) :
    ∃ t, accept p e s = .next t ∧ t.inputs = s.inputs := by
  cases e with
  | reset => exact ⟨_, rfl, rfl⟩
  | command w =>
    cases hd : decode p w with
    | ok i =>
      obtain ⟨t, ht⟩ := exec_next i s
      exact ⟨t, (acceptWord_ok s hd).trans ht, exec_inputs ht⟩
    | error r => exact ⟨_, acceptWord_error s hd, rfl⟩

/-- What an event does has nothing to do with the events still to come. -/
theorem accept_withInputs {p : Bool} {e : HostEvent} {s t : State} (l : List HostEvent)
    (h : accept p e s = .next t) : accept p e { s with inputs := l } = .next { t with inputs := l } := by
  cases e with
  | reset => injection h with h; subst h; rfl
  | command w =>
    cases hd : decode p w with
    | ok i =>
      rw [accept, acceptWord_ok _ hd] at h ⊢
      exact exec_withInputs l h
    | error r =>
      rw [accept, acceptWord_error _ hd] at h ⊢
      injection h with h
      subst h
      rfl

@[simp] theorem acceptAll_nil (p : Bool) (s : State) : acceptAll p [] s = .next s := rfl

theorem acceptAll_cons {p : Bool} {e : HostEvent} {rest : List HostEvent} {s t : State}
    (h : accept p e s = .next t) : acceptAll p (e :: rest) s = acceptAll p rest t := by
  rw [acceptAll, h]

end Sys2Proof.Machine
end

