-- ==== Sys2Proof/Tests/Slice0.lean ====
section
/-!
SUPPORT. Small tests, each with its source in the spec, and for each statement of
Certificates/Slice0/Obligations.lean that has hypotheses a concrete state and operands that meet them.
-/

namespace Sys2Proof.Tests

set_option Elab.async false

open Sys2Proof Sys2Proof.Machine

/-! ### Helpers -/

/-- The state a step or command answers. -/
def after (o : Host.Outcome State Fault Refusal) : State :=
  match o with
  | .next t => t
  | .fault _ => State.reset
  | .refused _ => State.reset

/-- A step or command answers a next state. -/
def goesOn (o : Host.Outcome State Fault Refusal) : Bool :=
  match o with
  | .next _ => true
  | .fault _ => false
  | .refused _ => false

theorem eq_next_after {o : Host.Outcome State Fault Refusal} (h : goesOn o = true) : o = .next (after o) := by
  cases o <;> simp_all [goesOn, after]

/-- Source scenario 1: payload, buffer, and the instance of serial 400565321 (S1). -/
def payload1 : Payload :=
  #v[0x11, 0x49, 0x24, 0x07, 0x0E, 0xA2, 0x76, 0x17, 0x0E, 0xCF, 0x86, 0x91, 0x67, 0x47, 0xCF, 0xA2, 0x77, 0xD3]
def buffer1 : Buffer := payload1 ++ (#v[0x6E, 0x2D] : Vector Byte 2)
def device1 : State :=
  { State.reset with serial := 400565321, key := #v[0x47, 0xCF, 0xA2, 0x7E, 0xB7], kvalid := true }

/-- T-RAW-3: the payload whose fields are all zero but the serial, and its instance. -/
def payload3 : Payload := #v[0x11, 0, 0, 0x47, 0, 0, 0, 0x29, 0x8C, 0, 0, 0, 0, 0x47, 0, 0, 0, 0]
def device3 : State :=
  { State.reset with serial := 1964010699, key := #v[0x47, 0, 0, 0, 0], kvalid := true }

/-- A state with a valid record whose time_between_pulses is given. -/
def withTbp (tbp : BitVec 16) : State :=
  { device1 with record := { Record.zero with tbp := tbp, serial := 565321 }, rvalid := true }

/-- A reset state with one command word issued. -/
def issued (w : CommandWord) : State := State.reset.issue [.command w]

/-! ### Well-formedness -/

/-- The one ill-formed command: PWR of a block without the power unit (R53). -/
theorem test_wellFormed_pwr_needs_power : (Instr.pwr 1000).wellFormed false = false := by decide

theorem test_wellFormed_pwr : (Instr.pwr 1000).wellFormed true = true := by decide

theorem test_wellFormed_ldser : (Instr.ldser 0).wellFormed false = true := by decide

/-! ### Decoding: words written out from R46 to R49 (T-ENC) -/

/-- T-ENC-1. -/
theorem test_decode_ldser :
    decode true 0x0117E0244900000000000000000000000000000000#168 = .ok (.ldser 400565321) := by decide +kernel

/-- T-ENC-3: a reserved bit. -/
theorem test_decode_ldser_reserved :
    decode true 0x0117E0244900000000000000000000000000000001#168 = .error (.reservedBits 1) := by decide +kernel

/-- T-ENC-4. -/
theorem test_decode_cksum :
    decode true 0x0211492407_0EA27617_0ECF86916747CFA277D30000#168 = .ok (.cksum payload1) := by decide +kernel

/-- T-ENC-5. -/
theorem test_decode_decraw :
    decode true 0x0311492407_0EA27617_0ECF86916747CFA277D30000#168 = .ok (.decraw payload1) := by decide +kernel

/-- T-ENC-6: format B18 with nonzero `W[15:0]`. -/
theorem test_decode_decraw_reserved :
    decode true 0x0311492407_0EA27617_0ECF86916747CFA277D36E2D#168 = .error (.reservedBits 3) := by
  decide +kernel

/-- T-ENC-7. -/
theorem test_decode_dec :
    decode true 0x0411492407_0EA27617_0ECF86916747CFA277D36E2D#168 = .ok (.dec buffer1) := by decide +kernel

/-- T-ENC-8. -/
theorem test_decode_pwr :
    decode true 0x05000003E800000000000000000000000000000000#168 = .ok (.pwr 1000) := by decide +kernel

/-- R53: opcode 0x05 without the power unit. -/
theorem test_decode_pwr_absent :
    decode false 0x05000003E800000000000000000000000000000000#168 = .error .powerAbsent := by decide +kernel

/-- T-ENC-10, T-ENC-11, T-ENC-12: reserved opcodes. -/
theorem test_decode_reserved_opcodes :
    decode true 0#168 = .error (.reservedOpcode 0) ∧
    decode true 0x060000000000000000000000000000000000000000#168 = .error (.reservedOpcode 6) ∧
    decode true 0xFF11492407_0EA27617_0ECF86916747CFA277D36E2D#168 = .error (.reservedOpcode 0xFF) := by
  decide +kernel

/-- The frame bytes of T-ENC-9, read as a byte string with one byte after them. -/
theorem test_decodeBytes_pwr :
    decodeBytes true ([0x05, 0xFF, 0xFF, 0xFF, 0xFF] ++ List.replicate 16 0 ++ [0xAA]) =
      .ok (.pwr 4294967295, [0xAA]) := by decide +kernel

theorem test_decodeBytes_short : decodeBytes true [0x01, 0x17] = .error (.incompleteWord 2) := by decide +kernel

/-- T-ENC-7, encoded. -/
theorem test_encode_dec :
    encode (.dec buffer1) = 0x0411492407_0EA27617_0ECF86916747CFA277D36E2D#168 := by decide +kernel

/-- T-ENC-1, as spec/opcode_table.json numbers its bits. -/
theorem test_decodeTableWord_ldser :
    decodeTableWord 168 0x0117E0244900000000000000000000000000000000 = some (.ldser 400565321) := by
  decide +kernel

/-! ### One step of each command -/

/-- T-KEY-6: the byte order of the base. -/
theorem test_ldser_key :
    (after (exec (.ldser 1980919759) device1)).key = #v[0x47, 0x02, 0x01, 0x04, 0x03] := by decide +kernel

/-- T-KEY-5: the largest serial wraps. -/
theorem test_ldser_wraps :
    (after (exec (.ldser 4294967295) State.reset)).key = #v[0x47, 0xEF, 0x8A, 0x34, 0x93] := by decide +kernel

/-- T-CK-5 (under D10): counting bytes. -/
theorem test_cksum_counting :
    (after (exec (.cksum (Vector.ofFn fun i => BitVec.ofNat 8 i)) State.reset)).csum = 0xEDCD := by
  decide +kernel

/-- T-CK-7 (under D10), in the table-driven form. -/
theorem test_cksum_table_form :
    crc16Table ((Vector.replicate 18 0).set 0 0x80) = 0x0418 := by decide +kernel

/-- T-RAW-1. -/
theorem test_decraw_record :
    (after (exec (.decraw payload1) device1)).record = ⟨36, 61392, 9, 100, 16577, 565321⟩ := by decide +kernel

/-- T-RAW-13: all three checks would fail and the first in order wins; T-RAW-14: the second. -/
theorem test_decraw_order :
    (after (exec (.decraw (((payload1.set 0 0x12).set 2 0x25).set 8 0x0F)) device1)).err = 2 ∧
    (after (exec (.decraw ((payload1.set 2 0x25).set 8 0x0F)) device1)).err = 3 := by decide +kernel

/-- T-DEC-1. -/
theorem test_dec_record :
    (after (exec (.dec buffer1) device1)).record = ⟨36, 61392, 9, 100, 16577, 565321⟩ := by decide +kernel

/-- T-DEC-10: a stale checksum comes before a wrong length marker. -/
theorem test_dec_badCRC_first :
    (after (exec (.dec (buffer1.set 0 0x12)) device1)).err = 1 := by decide +kernel

/-- T-PWR-2 and T-PWR-11. -/
theorem test_pwr_quotient :
    (after (exec (.pwr 1000) (withTbp 61392))).power = 60 ∧
    (after (exec (.pwr 65537) (withTbp 65535))).power = 0 := by decide +kernel

/-- T-PWR-15: a product that a 32-bit wrap would have hidden. -/
theorem test_pwr_overflow :
    (after (exec (.pwr 100000) (withTbp 42950))).fault = 16 := by decide +kernel

/-- P4, command 2: an illegal word raises IllegalCommand and not NoKey. -/
theorem test_illegal_word :
    (after (step (issued 0x0311492407_0EA27617_0ECF86916747CFA277D30001#168))).fault = 1 := by decide +kernel

/-- The first command after reset, through `withFetchWord`: DEC without a key. -/
theorem test_withFetchWord :
    (after (step (State.reset.withFetchWord 168 0x040000000000000000000000000000000000000000))).completion =
      some (.faulted .noKey) := by decide +kernel

/-- P1, line 1, as text (R54). -/
theorem test_assemble_ldser :
    assembleLine ['L', 'D', 'S', 'E', 'R', ' ', ' ', '4', '0', '0', '5', '6', '5', '3', '2', '1', ' ', ';', 'x'] =
      some [.command 0x0117E0244900000000000000000000000000000000#168] := by decide +kernel

theorem test_assemble_reset : assembleLine ['R', 'E', 'S', 'E', 'T'] = some [.reset] := by decide +kernel

/-! ### Witnesses: the hypotheses of the statements can be met -/

theorem witness_DecodeOfEncode :
    (Instr.pwr 1000).wellFormed true = true ∧ (Instr.dec buffer1).wellFormed false = true := by decide

theorem witness_EncodeOfDecode : decode false (encode (.decraw payload1)) = .ok (.decraw payload1) := by
  decide +kernel

theorem witness_FrameView : (List.replicate 20 (0 : Byte)).length < 21 := by decide

theorem witness_ReservedWordsAreIllegal_opcode0 :
    (issued 0).inputs = .command 0 :: [] ∧ (0 : CommandWord).extractLsb' 160 8 = 0x00#8 := by decide +kernel

theorem witness_ReservedWordsAreIllegal_opcode6 :
    let w : CommandWord := 0x060000000000000000000000000000000000000000#168
    (issued w).inputs = .command w :: [] ∧ 0x06#8 ≤ w.extractLsb' 160 8 := by decide +kernel

theorem witness_ReservedWordsAreIllegal_noPower :
    let w : CommandWord := 0x05000003E800000000000000000000000000000000#168
    (issued w).inputs = .command w :: [] ∧ w.extractLsb' 160 8 = 0x05#8 ∧ w.extractLsb' 0 128 = 0 := by
  decide +kernel

theorem witness_ReservedWordsAreIllegal_formatS :
    let w : CommandWord := 0x010000000080000000000000000000000000000000#168
    (issued w).inputs = .command w :: [] ∧ w.extractLsb' 160 8 = 0x01#8 ∧ w.extractLsb' 0 128 ≠ 0 := by
  decide +kernel

theorem witness_ReservedWordsAreIllegal_formatS_pwr :
    let w : CommandWord := 0x050000000080000000000000000000000000000000#168
    (issued w).inputs = .command w :: [] ∧ w.extractLsb' 160 8 = 0x05#8 ∧ w.extractLsb' 0 128 ≠ 0 := by
  decide +kernel

theorem witness_ReservedWordsAreIllegal_formatB18 :
    let w : CommandWord := 0x020000000000000000000000000000000000008000#168
    (issued w).inputs = .command w :: [] ∧ w.extractLsb' 160 8 = 0x02#8 ∧ w.extractLsb' 0 16 ≠ 0 := by
  decide +kernel

theorem witness_ReservedWordsAreIllegal_formatB18_decraw :
    let w : CommandWord := 0x030000000000000000000000000000000000000001#168
    (issued w).inputs = .command w :: [] ∧ w.extractLsb' 160 8 = 0x03#8 ∧ w.extractLsb' 0 16 ≠ 0 := by
  decide +kernel

theorem witness_DecoderMatchesOpcodeTable :
    decode true (encode (.pwr 7)) = .ok (.pwr 7) ∧
    ∃ r ∈ opcodeTable, r.accepts true (encode (.pwr 7)) = true := by decide +kernel

theorem witness_StepRunsDecodedCommand :
    (issued (encode (.cksum payload1))).inputs = .command (encode (.cksum payload1)) :: [] ∧
    decode config.hasPower (encode (.cksum payload1)) = .ok (.cksum payload1) := by decide +kernel

theorem witness_ResetEvent :
    ({ device1 with inputs := [.reset] } : State).inputs = .reset :: [] := by decide

theorem witness_ResetEvent_command :
    let s : State := { device1 with fault := 16, inputs := [.command 0] }
    (∀ rest, s.inputs ≠ .reset :: rest) ∧ (∃ t, step s = .next t) ∧ s.kvalid = true ∧ s.fault ≠ 0 :=
  ⟨by simp, ⟨_, eq_next_after (by decide +kernel)⟩, by decide, by decide⟩

theorem witness_IdleKeepsState : device1.inputs = [] := by decide

theorem witness_RunsFinish : 2 ≤ (State.reset.issue [.reset, .command 0]).inputs.length := by decide

theorem witness_RunsCompose :
    device1.inputs = [] ∧
    Sys2Proof.core.run [HostEvent.reset].length (device1.issue [.reset]) = .next State.reset := ⟨rfl, rfl⟩

theorem witness_LdserConstructs :
    let w : CommandWord := 0x010000000080000000000000000000000000000000#168
    w.extractLsb' 160 8 = 0x01#8 ∧ w.extractLsb' 0 128 ≠ 0#128 := by decide +kernel

theorem witness_CksumWritesCsum :
    let w : CommandWord := 0x020000000000000000000000000000000000000001#168
    w.extractLsb' 160 8 = 0x02#8 ∧ w.extractLsb' 0 16 ≠ 0#16 := by decide +kernel

theorem witness_OnlyLdserWritesInstance :
    (issued 0).inputs = .command 0 :: [] ∧ (∀ n, decode config.hasPower 0 ≠ .ok (.ldser n)) ∧
    ∃ t, step (issued 0) = .next t := by
  have h : decode config.hasPower 0 = .error (.reservedOpcode 0) := by decide +kernel
  refine ⟨by decide, fun n => ?_, _, eq_next_after (by decide +kernel)⟩
  rw [h]
  simp

theorem witness_MemReadBigEndian : 0 + 1 ≤ 1 ∧ 18 + 2 ≤ 20 ∧ 14 + 4 ≤ 18 := by decide

theorem witness_PlainBytes : 2 < 3 ∧ 3 ≤ 3 ∧ 17 < 18 := by decide

theorem witness_ChecksumDetectsOneBit : 7 < 8 := by decide

theorem witness_DecrawAccepts :
    device1.kvalid = true ∧ payload1[0] = 17#8 ∧
    (((payload1[9] ^^^ device1.key[1]) ++ (payload1[10] ^^^ device1.key[2])).extractLsb' 0 7).setWidth 8 =
      payload1[2] ∧
    ((payload1[5] ^^^ device1.key[2]) ++ (payload1[6] ^^^ device1.key[3]) ++
      (payload1[7] ^^^ device1.key[4]) ++ (payload1[8] ^^^ device1.key[0]) : BitVec 32).toNat =
      device1.serial.toNat % 1000000 := by decide +kernel

theorem witness_DecrawRejects_length : device1.kvalid = true ∧ (payload1.set 0 18)[0] ≠ 17#8 := by decide +kernel

theorem witness_DecrawRejects_echo :
    let d := payload1.set 2 0x25
    device1.kvalid = true ∧ d[0] = 17#8 ∧
    (((d[9] ^^^ device1.key[1]) ++ (d[10] ^^^ device1.key[2])).extractLsb' 0 7).setWidth 8 ≠ d[2] := by
  decide +kernel

theorem witness_DecrawRejects_serial :
    let d := payload1.set 8 0x0F
    device1.kvalid = true ∧ d[0] = 17#8 ∧
    (((d[9] ^^^ device1.key[1]) ++ (d[10] ^^^ device1.key[2])).extractLsb' 0 7).setWidth 8 = d[2] ∧
    ((d[5] ^^^ device1.key[2]) ++ (d[6] ^^^ device1.key[3]) ++ (d[7] ^^^ device1.key[4]) ++
      (d[8] ^^^ device1.key[0]) : BitVec 32).toNat ≠ device1.serial.toNat % 1000000 := by decide +kernel

theorem witness_DecodeWithoutKey : State.reset.kvalid = false := by decide

theorem witness_EchoBitSevenRejected :
    (payload1.set 2 0xA4)[2].msb = true ∧ (buffer1.set 2 0x80)[2].msb = true ∧ device1.kvalid = true ∧
    ∃ t, exec (.decraw (payload1.set 2 0xA4)) device1 = .next t :=
  ⟨by decide +kernel, by decide +kernel, by decide, _, eq_next_after (by decide +kernel)⟩

theorem witness_EchoBitSevenRejected_dec :
    (buffer1.set 2 0x80)[2].msb = true ∧ device1.kvalid = true ∧
    ∃ t, exec (.dec (buffer1.set 2 0x80)) device1 = .next t :=
  ⟨by decide +kernel, by decide, _, eq_next_after (by decide +kernel)⟩

theorem witness_DecAccepts :
    device1.kvalid = true ∧ config.ck (payloadOf buffer1) = buffer1[18] ++ buffer1[19] ∧
    buffer1[0] = 17#8 ∧
    (((buffer1[9] ^^^ device1.key[1]) ++ (buffer1[10] ^^^ device1.key[2])).extractLsb' 0 7).setWidth 8 =
      buffer1[2] ∧
    ((buffer1[5] ^^^ device1.key[2]) ++ (buffer1[6] ^^^ device1.key[3]) ++
      (buffer1[7] ^^^ device1.key[4]) ++ (buffer1[8] ^^^ device1.key[0]) : BitVec 32).toNat =
      device1.serial.toNat % 1000000 := by decide +kernel

theorem witness_DecRejects_checksum :
    let d := buffer1.set 19 0x2C
    device1.kvalid = true ∧ config.ck (payloadOf d) ≠ d[18] ++ d[19] := by decide +kernel

/-- T-DEC-7. -/
theorem witness_DecRejects_length :
    let d := ((buffer1.set 0 0x12).set 18 0x52).set 19 0x11
    device1.kvalid = true ∧ config.ck (payloadOf d) = d[18] ++ d[19] ∧ d[0] ≠ 17#8 := by decide +kernel

/-- T-DEC-8. -/
theorem witness_DecRejects_echo :
    let d := ((buffer1.set 2 0x25).set 18 0xE8).set 19 0x28
    device1.kvalid = true ∧ config.ck (payloadOf d) = d[18] ++ d[19] ∧ d[0] = 17#8 ∧
    (((d[9] ^^^ device1.key[1]) ++ (d[10] ^^^ device1.key[2])).extractLsb' 0 7).setWidth 8 ≠ d[2] := by
  decide +kernel

/-- T-DEC-9. -/
theorem witness_DecRejects_serial :
    let d := ((buffer1.set 8 0x0F).set 18 0x8E).set 19 0x3A
    device1.kvalid = true ∧ config.ck (payloadOf d) = d[18] ++ d[19] ∧ d[0] = 17#8 ∧
    (((d[9] ^^^ device1.key[1]) ++ (d[10] ^^^ device1.key[2])).extractLsb' 0 7).setWidth 8 = d[2] ∧
    ((d[5] ^^^ device1.key[2]) ++ (d[6] ^^^ device1.key[3]) ++ (d[7] ^^^ device1.key[4]) ++
      (d[8] ^^^ device1.key[0]) : BitVec 32).toNat ≠ device1.serial.toNat % 1000000 := by decide +kernel

theorem witness_DecAgreesWithDecraw :
    (∀ j : Fin 18, payload1[j] = buffer1[j.val]) ∧ config.ck payload1 = buffer1[18] ++ buffer1[19] := by
  decide +kernel

theorem witness_ChangedChecksumIsBadCRC :
    device1.kvalid = true ∧ config.ck (payloadOf buffer1) = buffer1[18] ++ buffer1[19] ∧
    ((0xFF, 0xFF) : Byte × Byte) ≠ (buffer1[18], buffer1[19]) := by decide +kernel

theorem witness_PwrCompletes_least :
    (withTbp 1).rvalid = true ∧ 1 ≤ (1 : BitVec 32).toNat * (withTbp 1).record.tbp.toNat ∧
    (1 : BitVec 32).toNat * (withTbp 1).record.tbp.toNat ≤ 2 ^ 32 - 1 := by decide +kernel

theorem witness_PwrCompletes_greatest :
    (withTbp 65535).rvalid = true ∧ 1 ≤ (65537 : BitVec 32).toNat * (withTbp 65535).record.tbp.toNat ∧
    (65537 : BitVec 32).toNat * (withTbp 65535).record.tbp.toNat = 2 ^ 32 - 1 := by decide +kernel

theorem witness_PwrValue :
    ∃ t, exec (.pwr 3686401) (withTbp 1000) = .next t ∧ t.completion = some .ok :=
  ⟨_, eq_next_after (by decide +kernel), by decide +kernel⟩

/-- The clauses of PwrValue on the quotient's value, at the ends of their ranges. -/
theorem witness_PwrValue_ranges :
    3686400000 < (3686401 : BitVec 32).toNat * (withTbp 1000).record.tbp.toNat ∧
    1843200001 ≤ (3686400 : BitVec 32).toNat * (withTbp 1000).record.tbp.toNat ∧
    (3686400 : BitVec 32).toNat * (withTbp 1000).record.tbp.toNat = 3686400000 := by decide +kernel

theorem witness_PwrFaults_noRecord : device1.rvalid = false := by decide

theorem witness_PwrFaults_zero :
    (withTbp 0).rvalid = true ∧ (5 : BitVec 32).toNat * (withTbp 0).record.tbp.toNat = 0 := by decide +kernel

theorem witness_PwrFaults_bound : (65537 : BitVec 32).toNat ≤ 65537 := by decide

theorem witness_PwrFaults_overflow :
    (withTbp 32768).rvalid = true ∧ (131072 : BitVec 32).toNat * (withTbp 32768).record.tbp.toNat = 2 ^ 32 := by
  decide +kernel

theorem witness_PwrOverflowBound :
    (65537 : BitVec 32).toNat ≤ 65537 ∧ 65538 ≤ (65538 : BitVec 32).toNat ∧
    ∃ t, exec (.pwr 65537) (withTbp 65535) = .next t :=
  ⟨by decide +kernel, by decide +kernel, _, eq_next_after (by decide +kernel)⟩

theorem witness_FaultEntry :
    (issued (encode (.dec buffer1))).inputs = .command (encode (.dec buffer1)) :: [] ∧
    ∃ t, step (issued (encode (.dec buffer1))) = .next t ∧ t.completion = some (.faulted .noKey) :=
  ⟨rfl, _, eq_next_after (by decide +kernel), by decide +kernel⟩

theorem witness_FaultOrder :
    let s : State := { withTbp 0 with inputs := [.command (encode (.pwr 5))] }
    s.inputs = .command (encode (.pwr 5)) :: [] ∧
    ∃ t, step s = .next t ∧ t.completion = some (.faulted .divideByZero) :=
  ⟨rfl, _, eq_next_after (by decide +kernel), by decide +kernel⟩

theorem witness_FaultBitsSticky :
    let s : State := { device1 with fault := 31, inputs := [.command 0] }
    (∃ t, step s = .next t) ∧ (∀ rest, s.inputs ≠ .reset :: rest) ∧ s.fault.getLsbD 4 = true :=
  ⟨⟨_, eq_next_after (by decide +kernel)⟩, by simp, by decide⟩

theorem witness_FaultBitsSticky_reset :
    let s : State := { device1 with fault := 31, inputs := [.reset] }
    (∃ t, step s = .next t) ∧ s.inputs = .reset :: [] :=
  ⟨⟨_, eq_next_after (by decide +kernel)⟩, rfl⟩

theorem witness_FaultNotRead : ∃ t, exec (.decraw payload1) State.reset = .next t :=
  ⟨_, eq_next_after (by decide +kernel)⟩

theorem witness_DecodeResultCode :
    ((∃ d, Instr.dec buffer1 = .decraw d) ∨ ∃ d, Instr.dec buffer1 = .dec d) ∧
    ∃ t, exec (.dec buffer1) device1 = .next t ∧ t.completion = some .ok :=
  ⟨.inr ⟨_, rfl⟩, _, eq_next_after (by decide +kernel), by decide +kernel⟩

theorem witness_DecodeReadsInstanceOnly :
    let s' : State := { withTbp 7 with err := 3, csum := 1, power := 2, fault := 9 }
    ((∃ d, Instr.decraw payload1 = .decraw d) ∨ ∃ d, Instr.decraw payload1 = .dec d) ∧
    device1.kvalid = true ∧ s'.kvalid = true ∧ device1.serial = s'.serial ∧ device1.key = s'.key ∧
    (∃ t, exec (.decraw payload1) device1 = .next t) ∧ ∃ t', exec (.decraw payload1) s' = .next t' :=
  ⟨.inl ⟨_, rfl⟩, rfl, rfl, rfl, rfl, ⟨_, eq_next_after (by decide +kernel)⟩,
    ⟨_, eq_next_after (by decide +kernel)⟩⟩

theorem witness_DecodesIndependent :
    ((∃ d, Instr.dec buffer1 = .decraw d) ∨ ∃ d, Instr.dec buffer1 = .dec d) ∧
    ((∃ d, Instr.decraw payload3 = .decraw d) ∨ ∃ d, Instr.decraw payload3 = .dec d) ∧
    device1.kvalid = true ∧
    ∃ u, exec (.decraw payload3) device1 = .next u ∧ (∃ t, exec (.dec buffer1) u = .next t) ∧
      ∃ t', exec (.dec buffer1) device1 = .next t' :=
  ⟨.inr ⟨_, rfl⟩, .inl ⟨_, rfl⟩, rfl, _, eq_next_after (by decide +kernel),
    ⟨_, eq_next_after (by decide +kernel)⟩, ⟨_, eq_next_after (by decide +kernel)⟩⟩

theorem witness_CommandFrames : ∃ t, exec (.pwr 1000) (withTbp 61392) = .next t :=
  ⟨_, eq_next_after (by decide +kernel)⟩

theorem witness_StepKeepsInvariants :
    let s : State := { withTbp 61392 with inputs := [.command (encode (.decraw payload3))] }
    s.Inv ∧ ∃ t, step s = .next t :=
  ⟨by decide +kernel, _, eq_next_after (by decide +kernel)⟩

theorem witness_RecordCarriesEcho :
    device1.kvalid = true ∧
    (∃ t, exec (.decraw payload1) device1 = .next t ∧ t.rvalid = true) ∧
    ∃ t, exec (.dec buffer1) device1 = .next t ∧ t.rvalid = true :=
  ⟨rfl, ⟨_, eq_next_after (by decide +kernel), by decide +kernel⟩,
    ⟨_, eq_next_after (by decide +kernel), by decide +kernel⟩⟩

theorem witness_InstancesShareNothing : (System.reset 2 (by decide)).blocks[1]? = some State.reset := by decide +kernel

theorem witness_InstancesCommute :
    let two := System.reset 2 (by decide)
    0 ≠ 1 ∧ System.step 0 two = .next two ∧ System.step 1 two = .next two := ⟨by decide, rfl, rfl⟩

/-- T-RAW-3: success with every field zero but the serial. -/
theorem witness_record_of_zero_fields :
    (after (exec (.decraw payload3) device3)).record = ⟨0, 0, 0, 0, 0, 10699⟩ := by decide +kernel

end Sys2Proof.Tests
end

/-!
PROOFS. The registers of 10_state.md: what a step, a raw decode and a decode command can do, said once, and the
statements of that chapter (R10 to R26).
-/

namespace Sys2Proof.Machine

/-! ### Steps -/

/-- Everything a step can do: an idle step keeps the state, the reset event resets it, and a command word runs
its command or raises IllegalCommand. -/
theorem step_cases {s t : State} (h : step s = .next t) :
    (s.inputs = [] ∧ t = s) ∨
    (∃ rest, s.inputs = .reset :: rest ∧ t = State.hostReset { s with inputs := rest }) ∨
    (∃ w rest, s.inputs = .command w :: rest ∧
      ((∃ i, decode config.hasPower w = .ok i ∧ exec i { s with inputs := rest } = .next t) ∨
        ((∀ i, decode config.hasPower w ≠ .ok i) ∧
          t = State.raise { s with inputs := rest } .illegalCommand))) := by
  cases hs : s.inputs with
  | nil =>
    rw [step_idle hs] at h
    injection h with h
    exact .inl ⟨rfl, h.symm⟩
  | cons e rest =>
    cases e with
    | reset =>
      rw [step_event hs] at h
      injection h with h
      exact .inr (.inl ⟨rest, rfl, h.symm⟩)
    | command w => exact .inr (.inr ⟨w, rest, rfl, step_command_cases hs h⟩)

/-! ### Successful decodes and their results -/

/-- An accepted record carries the sequence echo of its packet (R78). -/
theorem rawDecode_ok_echo {serial : BitVec 32} {key : Keystream} {d : Payload} {r : Record}
    (h : rawDecode serial key d = .ok r) : (r.seq.extractLsb' 0 7).setWidth 8 = d[2] := by
  obtain ⟨-, hecho, -, rfl⟩ := (rawDecode_ok_iff serial key d r).mp h
  exact (echoOk_iff _ _).mp hecho

/-- An accepted record carries the low six digits of the serial it is decoded under (R79). -/
theorem rawDecode_ok_serial {serial : BitVec 32} {key : Keystream} {d : Payload} {r : Record}
    (h : rawDecode serial key d = .ok r) : r.serial.toNat = serial.toNat % 1000000 := by
  obtain ⟨-, -, hserial, rfl⟩ := (rawDecode_ok_iff serial key d r).mp h
  exact (serialOk_iff _ _).mp hserial

/-- A checked decode that succeeds is a raw decode of the payload that succeeds (R89). -/
theorem rawDecode_ok_of_checkedDecode_ok {ck : Payload → BitVec 16} {serial : BitVec 32} {key : Keystream}
    {d : Buffer} {r : Record} (h : checkedDecode ck serial key d = .ok r) :
    rawDecode serial key (payloadOf d) = .ok r := by
  rw [checkedDecode_eq] at h
  split_ifs at h
  exact h

/-- A decode command that succeeds has accepted some payload. -/
theorem Decodes.exists_rawDecode_ok {i : Instr} {s : State} {r : Record} (h : Decodes i s (.ok r)) :
    ∃ d, rawDecode s.serial s.key d = .ok r := by
  rcases h with ⟨d, -, hd⟩ | ⟨d, -, hd⟩
  · exact ⟨d, hd.symm⟩
  · exact ⟨payloadOf d, rawDecode_ok_of_checkedDecode_ok hd.symm⟩

/-- A decode error's code is never the code of OK (R18). -/
theorem errCode_ne_zero (k : ErrorKind) : errCode k ≠ 0 := by cases k <;> decide

theorem errCode_toNat_le (k : ErrorKind) : (errCode k).toNat ≤ 4 := by cases k <;> decide

/-- Code 1 is BadCRC's alone (R18). -/
theorem errCode_eq_one_iff (k : ErrorKind) : errCode k = 1 ↔ k = .badCRC := by cases k <;> decide

/-- A finished decode leaves a valid record exactly when it gave one (R80, R81). -/
theorem State.finishDecode_rvalid_iff (s : State) (r : Except ErrorKind Record) :
    (s.finishDecode r).rvalid = true ↔ ∃ rec, r = .ok rec := by cases r <;> simp

/-- What a finished decode returns is the decode's own outcome, whatever state it ends in (R23). -/
theorem State.finishDecode_decodeResult (s s' : State) (r : Except ErrorKind Record) :
    (s.finishDecode r).decodeResult = (s'.finishDecode r).decodeResult := by cases r <;> rfl

/-- DECRAW and DEC are decode commands, each with a decode of its own. -/
theorem exec_eq_decodeCommand {i : Instr} (hi : (∃ d, i = .decraw d) ∨ ∃ d, i = .dec d) :
    ∃ decodeWith, ∀ s, exec i s = decodeCommand decodeWith s := by
  obtain ⟨d, rfl⟩ | ⟨d, rfl⟩ := hi
  · exact ⟨_, exec_decraw d⟩
  · exact ⟨_, exec_dec d⟩

/-- A decode command that completes without a fault ended a decode of its packet. -/
theorem exec_decode_ok {i : Instr} {s t : State} (hi : (∃ d, i = .decraw d) ∨ ∃ d, i = .dec d)
    (h : exec i s = .next t) (hok : t.completion = some .ok) :
    ∃ r, Decodes i s r ∧ t = s.finishDecode r := by
  rcases exec_cases h with ⟨n, rfl, -⟩ | ⟨d, rfl, -⟩ | ⟨r, hr, -, ht⟩ | ⟨n, rfl, -⟩ | ⟨c, rfl, -⟩
  · simp at hi
  · simp at hi
  · exact ⟨r, hr, ht⟩
  · simp at hi
  · simp at hok

/-- DECRAW cannot end in BadCRC (R82). -/
theorem Decodes.decraw_ne_badCRC {d : Payload} {s : State} : ¬ Decodes (.decraw d) s (.error .badCRC) := by
  rintro (⟨d', -, hd⟩ | ⟨d', hi, -⟩)
  · exact rawDecode_ne_badCRC _ _ _ hd.symm
  · cases hi

/-! ### The invariants of R16 -/

theorem State.reset_inv : State.reset.Inv := ⟨nofun, nofun, fun _ => rfl, by decide⟩

/-- A successful decode with a valid key keeps the invariants when the record carries the serial's digits. -/
theorem State.succeedDecode_inv {s : State} {r : Record} (hs : s.Inv) (hk : s.kvalid = true)
    (hr : r.serial.toNat = s.serial.toNat % 1000000) : (s.succeedDecode r).Inv := by
  obtain ⟨hinstance, -, -, -⟩ := hs
  have hlt : r.serial.toNat < 1000000 := hr ▸ Nat.mod_lt _ (by decide)
  exact ⟨hinstance, fun _ => ⟨hk, rfl, hr, hlt⟩, nofun, by simp [errOk]⟩

/-- A failed decode keeps the invariants: the record is cleared and the code is one of the four. -/
theorem State.failDecode_inv {s : State} (hs : s.Inv) (k : ErrorKind) : (s.failDecode k).Inv := by
  obtain ⟨hinstance, -, -, -⟩ := hs
  exact ⟨hinstance, nofun, fun _ => rfl, errCode_toNat_le k⟩

/-- Every command keeps the invariants: LDSER and a decode write the registers they speak of, and the other
endings leave those registers alone. -/
theorem exec_keeps_inv {i : Instr} {s t : State} (hs : s.Inv) (h : exec i s = .next t) : t.Inv := by
  rcases exec_cases h with ⟨n, -, rfl⟩ | ⟨d, -, rfl⟩ | ⟨r, hr, hk, rfl⟩ | ⟨n, -, -, -, -, rfl⟩ | ⟨c, rfl, -⟩
  · exact ⟨fun _ => ⟨rfl, rfl⟩, nofun, fun _ => rfl, by simp [errOk]⟩
  · exact hs
  · cases r with
    | ok rec =>
      obtain ⟨d, hd⟩ := hr.exists_rawDecode_ok
      exact State.succeedDecode_inv hs hk (rawDecode_ok_serial hd)
    | error k => exact State.failDecode_inv hs k
  · exact hs
  · exact hs

/-- Settles O57: the idle step and IllegalCommand touch no register the invariants speak of, reset meets them,
and every command keeps them. -/
theorem stepKeepsInvariants : Obligations.StepKeepsInvariants := by
  intro s t hs h
  rcases step_cases h with ⟨-, rfl⟩ | ⟨rest, -, rfl⟩ | ⟨w, rest, -, ⟨i, -, hi⟩ | ⟨-, rfl⟩⟩
  · exact hs
  · exact State.reset_inv
  · exact exec_keeps_inv (s := { s with inputs := rest }) hs hi
  · exact hs

/-- Settles O56. -/
theorem resetMeetsInvariants : Obligations.ResetMeetsInvariants := State.reset_inv

/-! ### `FAULT` -/

/-- A meaning does not read `FAULT`: from other fault bits it does the same to every other register and sets
the same bits. -/
def IgnoresFault (effect : State → Host.Outcome State Fault Refusal) : Prop :=
  ∀ (s t : State) (f : BitVec 5), effect s = .next t →
    ∃ set : BitVec 5, t.fault = s.fault ||| set ∧
      effect { s with fault := f } = .next { t with fault := f ||| set }

/-- An operation that leaves `FAULT` alone sets no bit of it. -/
theorem exists_faultSet_of_kept {effect : State → Host.Outcome State Fault Refusal} {s t : State}
    {f : BitVec 5} (ht : t.fault = s.fault) (h : effect { s with fault := f } = .next { t with fault := f }) :
    ∃ set : BitVec 5, t.fault = s.fault ||| set ∧
      effect { s with fault := f } = .next { t with fault := f ||| set } :=
  ⟨0, by simp [ht], by simpa using h⟩

theorem State.finishDecode_withFault (s : State) (f : BitVec 5) (r : Except ErrorKind Record) :
    State.finishDecode { s with fault := f } r = { s.finishDecode r with fault := f } := by cases r <;> rfl

theorem decodeCommand_ignoresFault (decodeWith : BitVec 32 → Keystream → Except ErrorKind Record) :
    IgnoresFault (decodeCommand decodeWith) := by
  intro s t f h
  rcases decodeCommand_cases h with ⟨hk, rfl⟩ | ⟨hk, rfl⟩
  · refine exists_faultSet_of_kept (by simp) ?_
    rw [decodeCommand_valid (s := { s with fault := f }) _ hk, State.finishDecode_withFault]
  · exact ⟨faultMask .noKey, rfl, decodeCommand_noKey (s := { s with fault := f }) _ hk⟩

theorem exec_pwr_ignoresFault (n : BitVec 32) : IgnoresFault (exec (.pwr n)) := by
  intro s t f h
  simp only [exec, execPwr] at h ⊢
  split_ifs at h ⊢ <;> injection h with h <;> subst h
  · exact ⟨faultMask .divideByZero, rfl, rfl⟩
  · exact ⟨faultMask .powerOverflow, rfl, rfl⟩
  · exact ⟨0#5, by simp, by rw [BitVec.or_zero]; rfl⟩
  · exact ⟨faultMask .noRecord, rfl, rfl⟩

theorem exec_ignoresFault (i : Instr) : IgnoresFault (exec i) := by
  cases i with
  | ldser n =>
    intro s t f h
    injection h with h
    subst h
    exact exists_faultSet_of_kept rfl rfl
  | cksum d =>
    intro s t f h
    injection h with h
    subst h
    exact exists_faultSet_of_kept rfl rfl
  | decraw d => exact decodeCommand_ignoresFault fun serial key => rawDecode serial key d
  | dec d => exact decodeCommand_ignoresFault fun serial key => checkedDecode config.ck serial key d
  | pwr n => exact exec_pwr_ignoresFault n

/-- A bit of `FAULT` that stands before a command stands after it. -/
theorem exec_keeps_faultBit {i : Instr} {s t : State} {b : Nat} (h : exec i s = .next t)
    (hb : s.fault.getLsbD b = true) : t.fault.getLsbD b = true := by
  obtain ⟨set, hset, -⟩ := exec_ignoresFault i s t 0 h
  simp [hset, hb]

/-- Settles O50: reset clears `FAULT`; every other step keeps it or ors bits into it. -/
theorem faultBitsSticky : Obligations.FaultBitsSticky := by
  intro s t h
  rcases step_cases h with ⟨hs, rfl⟩ | ⟨rest, hs, rfl⟩ | ⟨w, rest, hs, hw⟩
  · exact ⟨by simp [hs], fun _ _ _ hb => hb⟩
  · exact ⟨fun _ _ => rfl, fun hne => absurd hs (hne rest)⟩
  · refine ⟨by simp [hs], fun _ b _ hb => ?_⟩
    rcases hw with ⟨i, -, hi⟩ | ⟨-, rfl⟩
    · exact exec_keeps_faultBit hi hb
    · simp [hb]

/-- Settles O51: command by command, none reads `FAULT`. -/
theorem faultNotRead : Obligations.FaultNotRead := exec_ignoresFault

/-! ### What decode commands return -/

/-- Settles O52: a decode that gave a record leaves OK, and one that failed leaves its code. -/
theorem decodeResultCode : Obligations.DecodeResultCode := by
  intro i s t hi h hok
  obtain ⟨r, hr, rfl⟩ := exec_decode_ok hi h hok
  cases r with
  | ok rec => simp [errOk]
  | error k =>
    refine ⟨iff_of_false (by simp) (errCode_ne_zero k), errCode_toNat_le k, ?_⟩
    rintro d rfl hone
    obtain rfl : k = .badCRC := (errCode_eq_one_iff k).mp hone
    exact Decodes.decraw_ne_badCRC hr

/-- Settles O53: both states give the decode the same serial and key. -/
theorem decodeReadsInstanceOnly : Obligations.DecodeReadsInstanceOnly := by
  intro i s s' t t' hi hk hk' hserial hkey h h'
  obtain ⟨decodeWith, heq⟩ := exec_eq_decodeCommand hi
  rw [heq, decodeCommand_valid _ hk] at h
  rw [heq, decodeCommand_valid _ hk', ← hserial, ← hkey] at h'
  injection h with h
  injection h' with h'
  subst h h'
  exact State.finishDecode_decodeResult ..

/-- A valid record after a decode command is the one its decode gave. -/
theorem decodeCommand_rvalid {decodeWith : BitVec 32 → Keystream → Except ErrorKind Record} {s t : State}
    (hk : s.kvalid = true) (h : decodeCommand decodeWith s = .next t) (hr : t.rvalid = true) :
    decodeWith s.serial s.key = .ok t.record := by
  rw [decodeCommand_valid _ hk] at h
  injection h with h
  subst h
  obtain ⟨rec, hrec⟩ := (State.finishDecode_rvalid_iff ..).mp hr
  simp [hrec]

/-- Settles O58: the record came from a raw decode of the packet's 18 bytes, which checked the echo. -/
theorem recordCarriesEcho : Obligations.RecordCarriesEcho := by
  refine fun s t => ⟨fun d hk h hr => ?_, fun d hk h hr => ?_⟩
  · rw [exec_decraw] at h
    exact rawDecode_ok_echo (decodeCommand_rvalid hk h hr)
  · rw [exec_dec] at h
    have hraw := rawDecode_ok_of_checkedDecode_ok (decodeCommand_rvalid hk h hr)
    simpa [payloadOf] using rawDecode_ok_echo hraw

/-- Settles O34: without a valid key both decode commands raise NoKey before they look at the operand. -/
theorem decodeWithoutKey : Obligations.DecodeWithoutKey :=
  fun s hk =>
  ⟨fun d => (exec_decraw d s).trans (decodeCommand_noKey _ hk),
    fun d => (exec_dec d s).trans (decodeCommand_noKey _ hk)⟩

/-! ### Frames and reset -/

/-- What a decode command leaves unchanged: everything but the record, `RVALID` and `ERR`, and those too when
it has no valid key. -/
theorem decodeCommand_frame {decodeWith : BitVec 32 → Keystream → Except ErrorKind Record} {s t : State}
    (h : decodeCommand decodeWith s = .next t) :
    t.serial = s.serial ∧ t.key = s.key ∧ t.kvalid = s.kvalid ∧ t.csum = s.csum ∧ t.power = s.power ∧
      (t.completion = some .ok → t.fault = s.fault) ∧
      (s.kvalid = false → t.record = s.record ∧ t.rvalid = s.rvalid ∧ t.err = s.err) := by
  rcases decodeCommand_cases h with ⟨hk, rfl⟩ | ⟨-, rfl⟩
  · simp [hk]
  · simp

/-- What PWR leaves unchanged: everything but `POWER` when it completes, and but `FAULT` when it faults. -/
theorem exec_pwr_frame {n : BitVec 32} {s t : State} (h : exec (.pwr n) s = .next t) :
    t.serial = s.serial ∧ t.key = s.key ∧ t.kvalid = s.kvalid ∧ t.record = s.record ∧ t.rvalid = s.rvalid ∧
      t.err = s.err ∧ t.csum = s.csum ∧ (t.completion = some .ok → t.fault = s.fault) ∧
      (t.completion ≠ some .ok → t.power = s.power) := by
  rcases exec_pwr_cases h with ⟨-, rfl⟩ | ⟨-, -, rfl⟩ | ⟨-, -, rfl⟩ | ⟨-, -, -, rfl⟩ <;> simp

/-- Settles O55, command by command. -/
theorem commandFrames : Obligations.CommandFrames := by
  refine fun i s t h => ⟨exec_inputs h, ?_⟩
  cases i with
  | ldser n =>
    injection h with h
    subst h
    exact ⟨rfl, rfl, rfl⟩
  | cksum d =>
    injection h with h
    subst h
    simp
  | decraw d => exact decodeCommand_frame ((exec_decraw d s).symm.trans h)
  | dec d => exact decodeCommand_frame ((exec_dec d s).symm.trans h)
  | pwr n => exact exec_pwr_frame h

/-- Settles O10. -/
theorem resetValues : Obligations.ResetValues := ⟨rfl, rfl, rfl, rfl, rfl, rfl, rfl, rfl, rfl⟩

end Sys2Proof.Machine

/-!
PROOFS. 20_memory.md: the bytes of the packet operand as numbers (R32, R33), the order of a run's events (R41,
R127), and blocks side by side (R44).
-/

namespace Sys2Proof.Machine

/-! ### Runs in two parts -/

/-- Every step answers a next state (R107, R113). -/
theorem exists_step_next (s : State) : ∃ t, step s = .next t := by
  cases hs : s.inputs with
  | nil => exact ⟨s, step_idle hs⟩
  | cons e rest =>
    obtain ⟨t, ht, -⟩ := accept_next config.hasPower e { s with inputs := rest }
    exact ⟨t, (step_event hs).trans ht⟩

/-- A step with an event in hand leaves the other events to come, and does the same when the host has issued
further events behind them (R126). -/
theorem step_issue {s : State} {e : HostEvent} {rest : List HostEvent} (hs : s.inputs = e :: rest)
    (later : List HostEvent) :
    ∃ t, step s = .next t ∧ t.inputs = rest ∧ step (s.issue later) = .next (t.issue later) := by
  obtain ⟨t, ht, hrest⟩ := accept_next config.hasPower e { s with inputs := rest }
  have hissue : (s.issue later).inputs = e :: (rest ++ later) := by simp [hs]
  have hlater := accept_withInputs (rest ++ later) ht
  refine ⟨t, (step_event hs).trans ht, hrest, (step_event hissue).trans ?_⟩
  have htissue : t.issue later = { t with inputs := rest ++ later } := by rw [State.issue, hrest]
  rwa [htissue]

/-- A run that reaches `t` goes on from `t`. -/
theorem core_run_add {m n : Nat} {s t : State} (h : Sys2Proof.core.run m s = .next t) :
    Sys2Proof.core.run (m + n) s = Sys2Proof.core.run n t := by
  induction m generalizing s with
  | zero =>
    injection h with h
    subst h
    rw [Nat.zero_add]
  | succ m ih =>
    obtain ⟨u, hu⟩ := exists_step_next s
    rw [core_run_succ hu] at h
    rw [Nat.succ_add, core_run_succ hu, ih h]

/-- A run over events the host already has in hand is the same with further events behind them. -/
theorem core_run_issue {k : Nat} {s t : State} (later : List HostEvent) (hk : k ≤ s.inputs.length)
    (h : Sys2Proof.core.run k s = .next t) :
    Sys2Proof.core.run k (s.issue later) = .next (t.issue later) := by
  induction k generalizing s with
  | zero =>
    injection h with h
    subst h
    rfl
  | succ k ih =>
    obtain ⟨e, rest, hs⟩ := List.exists_cons_of_length_pos (Nat.zero_lt_of_lt hk)
    obtain ⟨u, hu, hrest, hissue⟩ := step_issue hs later
    rw [core_run_succ hu] at h
    rw [core_run_succ hissue]
    exact ih (by simpa [hs, hrest] using hk) h

/-- Settles O15: the first list's run does not see the second list, and the rest of the run starts where it
ended. -/
theorem runsCompose : Obligations.RunsCompose := by
  intro s t first second hs h
  have hfirst : first.length ≤ (s.issue first).inputs.length := by simp
  have hboth : s.issue (first ++ second) = (s.issue first).issue second := by simp [State.issue]
  rw [hboth]
  exact core_run_add (core_run_issue second hfirst h)

/-! ### Bytes assembled into numbers -/

/-- A byte appended to a word is the word's next digit in base 256 (R32). -/
theorem toNat_append_byte {w : Nat} (x : BitVec w) (b : Byte) : (x ++ b).toNat = x.toNat * 256 + b.toNat := by
  rw [BitVec.toNat_append, ← Nat.shiftLeft_add_eq_or_of_lt b.isLt, Nat.shiftLeft_eq]

/-- Settles O28: the bytes are the digits in base 256, the first the highest. -/
theorem fieldAssembly : Obligations.FieldAssembly := by
  refine ⟨fun a b => toNat_append_byte a b, fun a b c d => ?_⟩
  simp only [be32, toNat_append_byte]
  omega

/-- The number `MemRead` gives is its bytes' big-endian number, which fits its width (R33). -/
theorem memRead_toNat {len : Nat} (data : Vector Byte len) (off n : Nat) (h : off + n ≤ len) :
    (memRead data off n h).toNat = bigEndian ((data.toList.drop off).take n) := by
  have hlt := bigEndian_lt ((data.toList.drop off).take n)
  have hlen : ((data.toList.drop off).take n).length = n := by simp; omega
  rw [hlen, show 256 = 2 ^ 8 from rfl, ← pow_mul] at hlt
  exact (BitVec.toNat_ofNat ..).trans (Nat.mod_eq_of_lt hlt)

theorem memRead_zero {len : Nat} (data : Vector Byte len) (off : Nat) (h : off + 0 ≤ len) :
    (memRead data off 0 h).toNat = 0 := by
  rw [memRead_toNat]; rfl

/-- One byte more is the next byte, put behind the ones before (R33). -/
theorem memRead_succ {len : Nat} (data : Vector Byte len) (off n : Nat) (h : off + (n + 1) ≤ len) :
    memRead data off (n + 1) h = memRead data off n (Nat.le_of_succ_le h) ++ data[off + n] := by
  have htake : (data.toList.drop off).take (n + 1) = (data.toList.drop off).take n ++ [data[off + n]] := by
    rw [List.take_add_one]
    simp [show off + n < len from h]
  apply BitVec.eq_of_toNat_eq
  refine .trans ?_ (toNat_append_byte ..).symm
  rw [memRead_toNat, memRead_toNat, htake, bigEndian_append]

/-- Settles O27: byte by byte, each one more byte behind the ones before. -/
theorem memReadBigEndian : Obligations.MemReadBigEndian := by
  intro len data off
  have one (h : off + 1 ≤ len) : memRead data off 1 h = data[off] := by
    apply BitVec.eq_of_toNat_eq
    rw [memRead_succ, toNat_append_byte, memRead_zero]
    simp
  have two (h : off + 2 ≤ len) : memRead data off 2 h = data[off] ++ data[off + 1] := by
    rw [memRead_succ, one]
  refine ⟨one, two, fun h => ?_⟩
  rw [memRead_succ, memRead_succ, two]

/-! ### Decode commands and blocks side by side -/

/-- Settles O54: the earlier command leaves serial, key and `KVALID` unchanged, and a decode command reads
nothing else. -/
theorem decodesIndependent : Obligations.DecodesIndependent := by
  intro i j s u t t' hi hj hk hu ht ht'
  obtain ⟨decodeWith, heq⟩ := exec_eq_decodeCommand hj
  obtain ⟨hserial, hkey, hkvalid, -⟩ := decodeCommand_frame ((heq s).symm.trans hu)
  exact decodeReadsInstanceOnly i u s t t' hi (hkvalid.trans hk) hk hserial hkey ht ht'

/-- A step of a system that answers a next state is a step of one block that is there (R44). -/
theorem System.exists_block_of_step {k : Nat} {sys sys' : System} (h : System.step k sys = .next sys') :
    ∃ s t, sys.blocks[k]? = some s ∧ Sys2Proof.Machine.step s = .next t ∧ sys' = sys.put k t := by
  cases hs : sys.blocks[k]? with
  | none => simp [System.step, hs] at h
  | some s =>
    obtain ⟨t, ht⟩ := exists_step_next s
    rw [System.step_next hs ht] at h
    injection h with h
    exact ⟨s, t, rfl, ht, h.symm⟩

/-- Replacing one block's state leaves every other block. -/
theorem System.put_getElem?_ne {j k : Nat} (h : j ≠ k) (sys : System) (t : State) :
    (sys.put k t).blocks[j]? = sys.blocks[j]? := by
  simp [List.getElem?_set_ne h.symm]

theorem System.put_comm {j k : Nat} (h : j ≠ k) (sys : System) (t u : State) :
    (sys.put j t).put k u = (sys.put k u).put j t :=
  System.eq_of_blocks (List.set_comm t u h)

/-- Settles O59: every step of a block completes, and the system's step replaces that block's state alone. -/
theorem instancesShareNothing : Obligations.InstancesShareNothing := by
  intro k s sys hs
  obtain ⟨t, ht⟩ := exists_step_next s
  obtain ⟨hlt, -⟩ := List.getElem?_eq_some_iff.mp hs
  exact ⟨t, sys.put k t, ht, System.step_next hs ht, by simp [hlt], by simp,
    fun j hj => System.put_getElem?_ne hj sys t⟩

/-- Settles O60: each step finds its own block as it was, and writes to different places commute. -/
theorem instancesCommute : Obligations.InstancesCommute := by
  intro j k sys a b hjk ha hb
  obtain ⟨s, t, hs, ht, rfl⟩ := System.exists_block_of_step ha
  obtain ⟨u, v, hu, hv, rfl⟩ := System.exists_block_of_step hb
  rw [System.put_getElem?_ne hjk.symm] at hu
  refine ⟨sys.put k v, System.step_next hu hv, ?_⟩
  rw [System.put_comm hjk]
  exact System.step_next ((System.put_getElem?_ne hjk sys v).trans hs) ht

end Sys2Proof.Machine

/-!
PROOFS. 30_encoding.md: what the decoder accepts, said once in the fields of the word and once as the word of the
command, and the statements of that chapter (R45 to R54).
-/

namespace Sys2Proof.Machine

/-! ### Decode and encode -/

/-- The bits of a word below its opcode are those of a command: its operand, and reserved bits that are zero
(R47 to R49). -/
def OperandMatches (w : CommandWord) : Instr → Prop
  | .ldser n => reservedS w = 0#128 ∧ n = imm32Field w
  | .cksum d => reservedB18 w = 0#16 ∧ d = data18 w
  | .decraw d => reservedB18 w = 0#16 ∧ d = data18 w
  | .dec d => d = data20 w
  | .pwr n => reservedS w = 0#128 ∧ n = imm32Field w

/-- The decoder answers a command exactly when the block has it, its opcode stands in the word, and the rest of
the word is the command's. -/
theorem decode_eq_ok_iff {p : Bool} {w : CommandWord} {i : Instr} :
    decode p w = .ok i ↔ i.wellFormed p = true ∧ opField w = i.opcode ∧ OperandMatches w i := by
  constructor
  · intro h
    obtain ⟨hwf, hop, hmatch⟩ := decode_ok h
    refine ⟨hwf, hop, ?_⟩
    cases i <;> exact hmatch
  · rintro ⟨hwf, hop, hmatch⟩
    unfold decode
    rw [hop]
    cases i with
    | ldser n | cksum d | decraw d =>
      obtain ⟨hres, rfl⟩ := hmatch
      simp [Instr.opcode, hres]
    | dec d =>
      obtain rfl := hmatch
      simp [Instr.opcode]
    | pwr n =>
      obtain ⟨hres, rfl⟩ := hmatch
      obtain rfl : p = true := hwf
      simp [Instr.opcode, hres]

/-- A field of `m` whole payload bytes, from byte `a` on, is read byte by byte, most significant first (R50). -/
theorem eq_extractLsb'_iff_payloadByte (w : CommandWord) (a m : Nat) (h : a + m ≤ 20) (x : BitVec (8 * m)) :
    x = w.extractLsb' (8 * (20 - a - m)) (8 * m) ↔
      ∀ j < m, x.extractLsb' (8 * (m - 1 - j)) 8 = payloadByte w (a + j) := by
  constructor
  · rintro rfl j hj
    apply BitVec.eq_of_getLsbD_eq
    intro b hb
    have hbit : 152 - 8 * (a + j) + b = 8 * (20 - a - m) + (8 * (m - 1 - j) + b) := by omega
    have hin : 8 * (m - 1 - j) + b < 8 * m := by omega
    simp [payloadByte, hbit, hin]
  · intro hbytes
    apply BitVec.eq_of_getLsbD_eq
    intro b hb
    have hbyte := congrArg (fun y => y.getLsbD (b % 8)) (hbytes (m - 1 - b / 8) (by omega))
    have hleft : 8 * (m - 1 - (m - 1 - b / 8)) + b % 8 = b := by omega
    have hright : 152 - 8 * (a + (m - 1 - b / 8)) + b % 8 = 8 * (20 - a - m) + b := by omega
    have hmod : b % 8 < 8 := by omega
    simpa [payloadByte, hleft, hright, hmod, hb] using hbyte

theorem eq_imm32Field_iff (n : BitVec 32) (w : CommandWord) :
    n = imm32Field w ↔ ∀ j (h : j < 4), (scalarBytes n)[j] = payloadByte w j := by
  refine (eq_extractLsb'_iff_payloadByte w 0 4 (by decide) n).trans (forall₂_congr fun j h => ?_)
  rw [scalarBytes_getElem, Nat.zero_add, show 8 * (4 - 1 - j) = 24 - 8 * j by omega]

theorem reservedS_eq_zero_iff (w : CommandWord) : reservedS w = 0#128 ↔ ∀ j < 16, 0#8 = payloadByte w (4 + j) := by
  rw [eq_comm]
  simpa [reservedS] using eq_extractLsb'_iff_payloadByte w 4 16 (by decide) 0

theorem reservedB18_eq_zero_iff (w : CommandWord) :
    reservedB18 w = 0#16 ↔ ∀ j < 2, 0#8 = payloadByte w (18 + j) := by
  rw [eq_comm]
  simpa [reservedB18] using eq_extractLsb'_iff_payloadByte w 18 2 (by decide) 0

theorem eq_data18_iff (d : Payload) (w : CommandWord) :
    d = data18 w ↔ ∀ j (h : j < 18), d[j] = payloadByte w j := by
  simp [data18, Vector.ext_iff]

theorem eq_data20_iff (d : Buffer) (w : CommandWord) :
    d = data20 w ↔ ∀ j (h : j < 20), d[j] = payloadByte w j := by
  simp [data20, Vector.ext_iff]

/-- The payload bytes of a word are those of two vectors one after the other. -/
theorem forall_append_eq_payloadByte {m n : Nat} (u : Vector Byte m) (v : Vector Byte n) (w : CommandWord) :
    (∀ j (h : j < m + n), (u ++ v)[j] = payloadByte w j) ↔
      (∀ j (h : j < n), v[j] = payloadByte w (m + j)) ∧ ∀ j (h : j < m), u[j] = payloadByte w j := by
  constructor
  · intro hall
    constructor
    · intro j h
      have hj := hall (m + j) (by omega)
      rw [Vector.getElem_append_right (by omega) (by omega)] at hj
      simpa using hj
    · intro j h
      have hj := hall j (by omega)
      rwa [Vector.getElem_append_left h] at hj
  · rintro ⟨hv, hu⟩ j h
    rw [Vector.getElem_append]
    split
    · exact hu j _
    · have hj := hv (j - m) (by omega)
      rwa [Nat.add_sub_cancel' (by omega)] at hj

theorem formatS_iff (n : BitVec 32) (w : CommandWord) :
    reservedS w = 0#128 ∧ n = imm32Field w ↔
      ∀ j (h : j < 20), (scalarBytes n ++ Vector.replicate 16 0#8)[j] = payloadByte w j := by
  refine .trans ?_ (forall_append_eq_payloadByte (scalarBytes n) (Vector.replicate 16 0#8) w).symm
  simp [reservedS_eq_zero_iff, eq_imm32Field_iff]

theorem formatB18_iff (d : Payload) (w : CommandWord) :
    reservedB18 w = 0#16 ∧ d = data18 w ↔ ∀ j (h : j < 20), (d ++ #v[0#8, 0#8])[j] = payloadByte w j := by
  refine .trans ?_ (forall_append_eq_payloadByte d #v[0#8, 0#8] w).symm
  rw [reservedB18_eq_zero_iff, eq_data18_iff]
  refine and_congr_left' (forall₂_congr fun j h => ?_)
  interval_cases j <;> rfl

/-- In every format the operand and the zero reserved bits are the command's 20 payload bytes. -/
theorem operandMatches_iff (w : CommandWord) (i : Instr) :
    OperandMatches w i ↔ ∀ j (h : j < 20), i.payload[j] = payloadByte w j := by
  cases i with
  | ldser n | pwr n => exact formatS_iff n w
  | cksum d | decraw d => exact formatB18_iff d w
  | dec d => exact eq_data20_iff d w

/-- A word is its opcode and its payload bytes (R46). -/
theorem word_eq_of_payloadByte {w w' : CommandWord} (hop : opField w = opField w')
    (h : ∀ j < 20, payloadByte w j = payloadByte w' j) : w = w' := by
  refine word_eq_of_frameByte fun k hk => ?_
  cases k with
  | zero => exact hop
  | succ j => simpa only [payloadByte_eq_frameByte] using h j (by omega)

theorem encode_eq_iff (i : Instr) (w : CommandWord) :
    encode i = w ↔ opField w = i.opcode ∧ ∀ j (h : j < 20), i.payload[j] = payloadByte w j := by
  constructor
  · rintro rfl
    exact ⟨opField_encode i, fun j h => (payloadByte_encode i j h).symm⟩
  · rintro ⟨hop, hpayload⟩
    exact word_eq_of_payloadByte ((opField_encode i).trans hop.symm) fun j h =>
      (payloadByte_encode i j h).trans (hpayload j h)

/-- A word decodes to a command exactly when it is that command's word and the block has the command (R52). -/
theorem decode_eq_ok_iff_encode {p : Bool} {w : CommandWord} {i : Instr} :
    decode p w = .ok i ↔ i.wellFormed p = true ∧ encode i = w := by
  rw [decode_eq_ok_iff, operandMatches_iff, encode_eq_iff]

/-- Settles O1. -/
theorem decodeOfEncode : Obligations.DecodeOfEncode := fun _ _ hwf =>
  decode_eq_ok_iff_encode.mpr ⟨hwf, rfl⟩

/-- Settles O2. -/
theorem encodeOfDecode : Obligations.EncodeOfDecode := fun _ _ _ h =>
  (decode_eq_ok_iff_encode.mp h).symm

/-- Settles O3: each format is what the decoder checks for its commands, and all but PWR are always there. -/
theorem wordFormats : Obligations.WordFormats := by
  intro p w
  refine ⟨fun n => ?_, fun n => decode_eq_ok_iff, fun d => ?_, fun d => ?_, fun d => ?_⟩ <;>
    refine decode_eq_ok_iff.trans ((and_iff_right rfl).trans ?_)
  · exact .rfl
  · exact and_congr_right' (and_congr_right' (eq_data18_iff d w))
  · exact and_congr_right' (and_congr_right' (eq_data18_iff d w))
  · exact and_congr_right' (eq_data20_iff d w)

/-! ### Frames and byte strings -/

theorem getElem_frameOfWord (w : CommandWord) (k : Nat) (h : k < 21) : (frameOfWord w)[k] = frameByte w k := by
  simp [frameOfWord]

theorem wordOfFrame_frameOfWord (w : CommandWord) : wordOfFrame (frameOfWord w) = w :=
  word_eq_of_frameByte fun k hk => by rw [frameByte_wordOfFrame _ k hk, getElem_frameOfWord]

theorem frameOfWord_wordOfFrame (f : Frame) : frameOfWord (wordOfFrame f) = f :=
  Vector.ext fun k hk => by rw [getElem_frameOfWord, frameByte_wordOfFrame]

/-- Settles O4: a frame and its word have the same bytes, and the first 21 bytes of a string are a frame. -/
theorem frameView : Obligations.FrameView := by
  refine ⟨fun w => ⟨wordOfFrame_frameOfWord w, getElem_frameOfWord w, getElem_frameOfWord w 0 _, fun j hj => ?_⟩,
    frameOfWord_wordOfFrame, fun p f rest => ?_, fun p bytes h => ?_⟩
  · rw [getElem_frameOfWord, payloadByte_eq_frameByte]
  · have hlen : f.toList.length = 21 := by simp
    have hlong : ¬ (f.toList ++ rest).length < 21 := by simp
    rw [decodeBytes, if_neg hlong, List.take_left' hlen, List.drop_left' hlen]
    rfl
  · rw [decodeBytes, if_pos h]

/-! ### Command words as events -/

theorem takeEvent_command {s : State} {w : CommandWord} {rest : List HostEvent} (p : Bool)
    (h : s.inputs = .command w :: rest) : takeEvent p s = acceptWord p w { s with inputs := rest } := by
  rw [takeEvent, h]
  rfl

/-- Settles O5: a command of any format has another opcode than these words, or zero reserved bits where they
have none. -/
theorem reservedWordsAreIllegal : Obligations.ReservedWordsAreIllegal := by
  intro p w rest s hs hres
  rw [takeEvent_command p hs]
  cases hd : decode p w with
  | error r => exact acceptWord_error _ hd
  | ok i =>
    exfalso
    obtain ⟨hwf, hop, hmatch⟩ := decode_eq_ok_iff.mp hd
    rw [opField] at hop
    simp only [hop] at hres
    cases i with
    | ldser n | cksum d | decraw d =>
      obtain ⟨hzero, -⟩ := hmatch
      exact absurd hzero (by simpa [Instr.opcode, reservedS, reservedB18] using hres)
    | dec d => simp [Instr.opcode] at hres
    | pwr n =>
      obtain ⟨hzero, -⟩ := hmatch
      obtain habsent | hnonzero : p = false ∨ reservedS w ≠ 0#128 := by
        simpa [Instr.opcode, reservedS] using hres
      · exact absurd hwf (by simp [Instr.wellFormed, habsent])
      · exact hnonzero hzero

/-- Settles O9. -/
theorem stepRunsDecodedCommand : Obligations.StepRunsDecodedCommand := fun _ _ _ _ hs hd =>
  (takeEvent_command config.hasPower hs).trans (acceptWord_ok _ hd)

/-! ### The opcode table -/

theorem append_eq_append_iff {m n : Nat} {x x' : BitVec m} {y y' : BitVec n} :
    x ++ y = x' ++ y' ↔ x = x' ∧ y = y' := by
  constructor
  · intro h
    have hx := congrArg (BitVec.extractLsb' n m) h
    have hy := congrArg (BitVec.extractLsb' 0 n) h
    simp only [BitVec.extractLsb'_append_eq_left, BitVec.extractLsb'_append_eq_right] at hx hy
    exact ⟨hx, hy⟩
  · rintro ⟨rfl, rfl⟩
    rfl

/-- Every command has a row (R45). -/
theorem exists_row_of_opcode (i : Instr) : ∃ r ∈ opcodeTable, r.op = i.opcode := by
  cases i <;> simp [opcodeTable, Instr.opcode]

/-- No two rows have one opcode. -/
theorem row_eq_of_op : ∀ r ∈ opcodeTable, ∀ r' ∈ opcodeTable, r.op = r'.op → r = r' := by
  decide

/-- The bits a row fixes: an opcode of eight bits at the top and `l` zero bits at the bottom, with `m` free bits
between them. -/
theorem and_mask_eq_iff {m l : Nat} (w : BitVec (8 + m + l)) (op : Byte) :
    w &&& (0xFF#8 ++ 0#m ++ BitVec.allOnes l) = op ++ 0#m ++ 0#l ↔
      w.extractLsb' (l + m) 8 = op ∧ w.extractLsb' 0 l = 0#l := by
  have hw : w.extractLsb' (l + m) 8 ++ w.extractLsb' l m ++ w.extractLsb' 0 l = w := by
    rw [BitVec.extractLsb'_append_extractLsb'_eq_extractLsb' rfl, BitVec.extractLsb'_append_extractLsb']
  have hff : w.extractLsb' (l + m) 8 &&& 0xFF#8 = w.extractLsb' (l + m) 8 := BitVec.and_allOnes
  calc w &&& (0xFF#8 ++ 0#m ++ BitVec.allOnes l) = op ++ 0#m ++ 0#l
      ↔ w.extractLsb' (l + m) 8 ++ 0#m ++ w.extractLsb' 0 l = op ++ 0#m ++ 0#l := by
        conv_lhs => rw [← hw]
        rw [BitVec.and_append, BitVec.and_append, BitVec.and_zero, BitVec.and_allOnes, hff]
    _ ↔ _ := by rw [append_eq_append_iff, append_eq_append_iff, and_iff_left rfl]

/-- Which words decode to a command of a given opcode (R45, R47 to R49). -/
theorem exists_decode_ok_iff {p : Bool} {w : CommandWord} {op : Byte} :
    (∃ i, decode p w = .ok i ∧ i.opcode = op) ↔ opField w = op ∧
      (op = 0x01#8 ∧ reservedS w = 0#128 ∨ (op = 0x02#8 ∨ op = 0x03#8) ∧ reservedB18 w = 0#16 ∨ op = 0x04#8 ∨
        op = 0x05#8 ∧ reservedS w = 0#128 ∧ p = true) := by
  constructor
  · rintro ⟨i, hi, rfl⟩
    obtain ⟨hwf, hop, hmatch⟩ := decode_eq_ok_iff.mp hi
    refine ⟨hop, ?_⟩
    cases i with
    | ldser n | cksum d | decraw d => simpa [Instr.opcode] using hmatch.1
    | dec d => simp [Instr.opcode]
    | pwr n => simpa [Instr.opcode] using ⟨hmatch.1, hwf⟩
  · rintro ⟨hop, ⟨rfl, hres⟩ | ⟨rfl | rfl, hres⟩ | rfl | ⟨rfl, hres, hp⟩⟩
    · exact ⟨.ldser (imm32Field w), decode_eq_ok_iff.mpr ⟨rfl, hop, hres, rfl⟩, rfl⟩
    · exact ⟨.cksum (data18 w), decode_eq_ok_iff.mpr ⟨rfl, hop, hres, rfl⟩, rfl⟩
    · exact ⟨.decraw (data18 w), decode_eq_ok_iff.mpr ⟨rfl, hop, hres, rfl⟩, rfl⟩
    · exact ⟨.dec (data20 w), decode_eq_ok_iff.mpr ⟨rfl, hop, rfl⟩, rfl⟩
    · exact ⟨.pwr (imm32Field w), decode_eq_ok_iff.mpr ⟨hp, hop, hres, rfl⟩, rfl⟩

/-- A row of the table accepts exactly the words that decode to a command of the row's opcode. -/
theorem accepts_iff {p : Bool} {r : OpcodeRow} (hr : r ∈ opcodeTable) (w : CommandWord) :
    r.accepts p w = true ↔ ∃ i, decode p w = .ok i ∧ i.opcode = r.op := by
  have hS (op : Byte) := and_mask_eq_iff (m := 32) (l := 128) w op
  have hB18 (op : Byte) := and_mask_eq_iff (m := 144) (l := 16) w op
  have hB20 (op : Byte) := and_mask_eq_iff (m := 160) (l := 0) w op
  rw [exists_decode_ok_iff, OpcodeRow.accepts, Bool.and_eq_true, decide_eq_true_iff]
  simp only [opcodeTable, List.mem_cons, List.not_mem_nil, or_false] at hr
  rcases hr with rfl | rfl | rfl | rfl | rfl
  · simpa [opField, reservedS] using hS 0x01
  · simpa [opField, reservedB18] using hB18 0x02
  · simpa [opField, reservedB18] using hB18 0x03
  · simpa [opField] using hB20 0x04
  · simpa [opField, reservedS, and_assoc] using and_congr_left' (c := p = true) (hS 0x05)

/-- Settles O6. -/
theorem decoderMatchesOpcodeTable : Obligations.DecoderMatchesOpcodeTable := by
  intro p w
  refine ⟨fun i hi => ?_, fun r hr h => (accepts_iff hr w).mp h, fun r hr r' hr' h h' => ?_⟩
  · obtain ⟨r, hr, hop⟩ := exists_row_of_opcode i
    exact ⟨r, hr, (accepts_iff hr w).mpr ⟨i, hi, hop.symm⟩, hop⟩
  · obtain ⟨i, hi, hop⟩ := (accepts_iff hr w).mp h
    obtain ⟨i', hi', hop'⟩ := (accepts_iff hr' w).mp h'
    obtain rfl : i = i' := by simpa [hi] using hi'
    exact row_eq_of_op r hr r' hr' (hop.symm.trans hop')

/-! ### The textual form -/

/-- A text that a line's reader takes as one token: not empty, with no blank and no start of a comment (R54). -/
structure IsToken (t : List Char) : Prop where
  ne_nil : t ≠ []
  blank : ' ' ∉ t
  semicolon : ';' ∉ t

/-- A byte as two digits, as `printByte` writes it after a blank. -/
def byteToken (b : Byte) : List Char := [hexDigit (b.toNat / 16), hexDigit (b.toNat % 16)]

/-- A scalar as `printNumber` writes it after a blank. -/
def numberToken (n : BitVec 32) : List Char := '0' :: 'x' :: (scalarBytes n).toList.flatMap byteToken

/-- The first token of a command's line. -/
def mnemonicToken : Instr → List Char
  | .ldser _ => ['L', 'D', 'S', 'E', 'R']
  | .cksum _ => ['C', 'K', 'S', 'U', 'M']
  | .decraw _ => ['D', 'E', 'C', 'R', 'A', 'W']
  | .dec _ => ['D', 'E', 'C']
  | .pwr _ => ['P', 'W', 'R']

/-- The other tokens of a command's line. -/
def operandTokens : Instr → List (List Char)
  | .ldser n => [numberToken n]
  | .cksum d => d.toList.map byteToken
  | .decraw d => d.toList.map byteToken
  | .dec d => d.toList.map byteToken
  | .pwr n => [numberToken n]

/-- A printed command is its tokens with a blank before each operand. -/
theorem printCommand_eq (i : Instr) :
    printCommand i = mnemonicToken i ++ (operandTokens i).flatMap (' ' :: ·) := by
  cases i with
  | ldser n | pwr n =>
    simp only [operandTokens, List.flatMap_singleton]
    rfl
  | cksum d | decraw d | dec d =>
    simp only [operandTokens, List.flatMap_map]
    rfl

theorem stripComment_eq_self {l : List Char} (h : ';' ∉ l) : stripComment l = l := by
  induction l with
  | nil => rfl
  | cons c l ih =>
    rw [stripComment, if_neg (List.ne_of_not_mem_cons h).symm, ih (List.not_mem_of_not_mem_cons h)]

theorem tokensFrom_append {t : List Char} (ht : ' ' ∉ t) (current rest : List Char) :
    tokensFrom current (t ++ rest) = tokensFrom (t.reverse ++ current) rest := by
  induction t generalizing current with
  | nil => rfl
  | cons c t ih =>
    rw [List.cons_append, tokensFrom, if_neg (List.ne_of_not_mem_cons ht).symm,
      ih (List.not_mem_of_not_mem_cons ht), List.reverse_cons, List.append_assoc, List.singleton_append]

theorem tokensFrom_blank {t : List Char} (ht : t ≠ []) (rest : List Char) :
    tokensFrom t.reverse (' ' :: rest) = t :: tokensFrom [] rest := by
  simp [tokensFrom, ht]

/-- Tokens with one blank before each but the first are read one by one. -/
theorem tokensFrom_flatMap {t : List Char} {ts : List (List Char)} (ht : IsToken t) (hts : ∀ u ∈ ts, IsToken u) :
    tokensFrom [] (t ++ ts.flatMap (' ' :: ·)) = t :: ts := by
  induction ts generalizing t with
  | nil =>
    rw [tokensFrom_append ht.blank]
    simp [tokensFrom, ht.ne_nil]
  | cons u ts ih =>
    obtain ⟨hu, hts⟩ := List.forall_mem_cons.mp hts
    rw [tokensFrom_append ht.blank, List.append_nil, List.flatMap_cons, List.cons_append,
      tokensFrom_blank ht.ne_nil, ih hu hts]

theorem tokens_flatMap {t : List Char} {ts : List (List Char)} (ht : IsToken t) (hts : ∀ u ∈ ts, IsToken u) :
    tokens (t ++ ts.flatMap (' ' :: ·)) = t :: ts := by
  have hcomment : ';' ∉ t ++ ts.flatMap (' ' :: ·) := by
    simpa using ⟨ht.semicolon, fun u hu => (hts u hu).semicolon⟩
  rw [tokens, stripComment_eq_self hcomment, tokensFrom_flatMap ht hts]

/-- A printed digit is read as its value, and ends neither a token nor a line. -/
theorem hexDigit_spec : ∀ n < 16, hexValue (hexDigit n) = some n ∧ ' ' ≠ hexDigit n ∧ ';' ≠ hexDigit n := by
  decide

theorem isToken_byteToken (b : Byte) : IsToken (byteToken b) := by
  have hb := b.isLt
  obtain ⟨-, hblank, hcomment⟩ := hexDigit_spec (b.toNat / 16) (by omega)
  obtain ⟨-, hblank', hcomment'⟩ := hexDigit_spec (b.toNat % 16) (by omega)
  constructor <;> simp [byteToken, hblank, hblank', hcomment, hcomment']

theorem isToken_numberToken (n : BitVec 32) : IsToken (numberToken n) := by
  refine ⟨by simp [numberToken], ?_, ?_⟩
  · simpa [numberToken] using fun b _ => (isToken_byteToken b).blank
  · simpa [numberToken] using fun b _ => (isToken_byteToken b).semicolon

theorem isToken_mnemonicToken (i : Instr) : IsToken (mnemonicToken i) := by
  cases i <;> constructor <;> simp [mnemonicToken]

theorem isToken_of_mem_operandTokens (i : Instr) : ∀ t ∈ operandTokens i, IsToken t := by
  cases i with
  | ldser n | pwr n => simpa [operandTokens] using isToken_numberToken n
  | cksum d | decraw d | dec d => simpa [operandTokens] using fun b _ => isToken_byteToken b

theorem parseByte_byteToken (b : Byte) : parseByte (byteToken b) = some b := by
  have hb := b.isLt
  obtain ⟨hhigh, -⟩ := hexDigit_spec (b.toNat / 16) (by omega)
  obtain ⟨hlow, -⟩ := hexDigit_spec (b.toNat % 16) (by omega)
  simp [parseByte, byteToken, hhigh, hlow, Nat.div_add_mod']

theorem parseByteList_map_byteToken (bytes : List Byte) : parseByteList (bytes.map byteToken) = some bytes := by
  induction bytes with
  | nil => rfl
  | cons b bytes ih => simp [parseByteList, parseByte_byteToken, ih]

theorem parseBytes_map_byteToken {n : Nat} (v : Vector Byte n) :
    parseBytes n (v.toList.map byteToken) = some v := by
  simp [parseBytes, parseByteList_map_byteToken, Vector.toList]

/-- Two hexadecimal digits per byte are the big-endian number of the bytes, behind the digits already read. -/
theorem digitsValue_flatMap_byteToken (bytes : List Byte) (acc : Nat) :
    digitsValue 16 acc (bytes.flatMap byteToken) = some (bytes.foldl (fun a b => a * 256 + b.toNat) acc) := by
  induction bytes generalizing acc with
  | nil => rfl
  | cons b bytes ih =>
    have hb := b.isLt
    have hhigh : b.toNat / 16 < 16 := by omega
    have hlow : b.toNat % 16 < 16 := by omega
    have hsum : (acc * 16 + b.toNat / 16) * 16 + b.toNat % 16 = acc * 256 + b.toNat := by omega
    simp [byteToken, digitsValue, (hexDigit_spec _ hhigh).1, (hexDigit_spec _ hlow).1, hhigh, hlow, hsum, ih]

theorem bigEndian_scalarBytes (n : BitVec 32) : bigEndian (scalarBytes n).toList = n.toNat := by
  have hbytes := toNat_eq_littleEndian n
  simp only [bigEndian, scalarBytes, Vector.toList_mk, List.foldl_cons, List.foldl_nil]
  omega

theorem parseNumber_numberToken (n : BitVec 32) : parseNumber (numberToken n) = some n := by
  have hdigits : digitsValue 16 0 ((scalarBytes n).toList.flatMap byteToken) = some n.toNat := by
    rw [digitsValue_flatMap_byteToken, ← bigEndian_scalarBytes]
    rfl
  cases hcases : (scalarBytes n).toList.flatMap byteToken with
  | nil => simp [scalarBytes, byteToken] at hcases
  | cons c digits =>
    rw [hcases] at hdigits
    simp [numberToken, parseNumber, hcases, hdigits, n.isLt]

theorem parseCommand_tokens (i : Instr) : parseCommand (mnemonicToken i) (operandTokens i) = some i := by
  cases i with
  | ldser n | pwr n => simp [parseCommand, mnemonicToken, operandTokens, parseNumber_numberToken]
  | cksum d | decraw d | dec d => simp [parseCommand, mnemonicToken, operandTokens, parseBytes_map_byteToken]

theorem mnemonicToken_ne_reset (i : Instr) : mnemonicToken i ≠ ['R', 'E', 'S', 'E', 'T'] := by
  cases i <;> simp [mnemonicToken]

/-- Settles O8: the line's tokens are those printed, and each operand token is read back as its value. -/
theorem assembleOfPrint : Obligations.AssembleOfPrint := by
  intro i
  have htokens : tokens (printCommand i) = mnemonicToken i :: operandTokens i := by
    rw [printCommand_eq, tokens_flatMap (isToken_mnemonicToken i) (isToken_of_mem_operandTokens i)]
  simp [assembleLine, htokens, mnemonicToken_ne_reset, parseCommand_tokens]

/-- Settles O7. -/
theorem sampleWordsDecode : Obligations.SampleWordsDecode := by
  refine ⟨?_, ?_, ?_, ?_, ?_⟩ <;> decide +kernel

end Sys2Proof.Machine

/-!
PROOFS. 40_checksum.md: the checksum engine is linear over GF(2), a step of it can be undone, and it multiplies by
`x` modulo the generator; from these come the statements of that chapter (R61 to R66).
-/

namespace Sys2Proof.Machine

/-! ### The engine is linear -/

/-- One step is a shift and, when bit 15 leaves, the polynomial (R62). -/
theorem crcShift_eq (c : BitVec 16) : crcShift c = (c <<< 1) ^^^ bif c.msb then 0x8005#16 else 0#16 := by
  cases hc : c.msb <;> simp [crcShift, hc]

theorem crcShift_xor (a b : BitVec 16) : crcShift (a ^^^ b) = crcShift a ^^^ crcShift b := by
  have hpoly : (bif a.msb ^^ b.msb then 0x8005#16 else 0#16) =
      (bif a.msb then 0x8005#16 else 0#16) ^^^ bif b.msb then 0x8005#16 else 0#16 := by
    cases a.msb <;> cases b.msb <;> rfl
  rw [crcShift_eq, crcShift_eq, crcShift_eq, BitVec.msb_xor, BitVec.shiftLeft_xor_distrib, hpoly]
  ac_rfl

theorem crcShifts_xor (n : Nat) (a b : BitVec 16) : crcShifts n (a ^^^ b) = crcShifts n a ^^^ crcShifts n b := by
  induction n generalizing a b with
  | zero => rfl
  | succ n ih => rw [crcShifts, crcShift_xor, ih, crcShifts, crcShifts]

theorem crcByte_xor (c c' : BitVec 16) (b b' : Byte) :
    crcByte (c ^^^ c') (b ^^^ b') = crcByte c b ^^^ crcByte c' b' := by
  have hbyte : (b ^^^ b') ++ 0#8 = (b ++ 0#8) ^^^ (b' ++ 0#8) := by rw [BitVec.xor_append, BitVec.xor_zero]
  have hsum : c ^^^ c' ^^^ ((b ^^^ b') ++ 0#8) = (c ^^^ (b ++ 0#8)) ^^^ (c' ^^^ (b' ++ 0#8)) := by
    rw [hbyte]
    ac_rfl
  rw [crcByte, hsum, crcShifts_xor, crcByte, crcByte]

theorem crcFrom_cons (c : BitVec 16) (b : Byte) (bytes : List Byte) :
    crcFrom c (b :: bytes) = crcFrom (crcByte c b) bytes := rfl

theorem crcFrom_append (c : BitVec 16) (bytes bytes' : List Byte) :
    crcFrom c (bytes ++ bytes') = crcFrom (crcFrom c bytes) bytes' := List.foldl_append

theorem crcFrom_xor {bytes bytes' : List Byte} (h : bytes.length = bytes'.length) (c c' : BitVec 16) :
    crcFrom (c ^^^ c') (List.zipWith (· ^^^ ·) bytes bytes') = crcFrom c bytes ^^^ crcFrom c' bytes' := by
  induction bytes generalizing bytes' c c' with
  | nil =>
    obtain rfl := List.length_eq_zero_iff.mp h.symm
    rfl
  | cons b bytes ih =>
    cases bytes' with
    | nil => simp at h
    | cons b' bytes' =>
      rw [List.zipWith_cons_cons, crcFrom_cons, crcByte_xor, ih (by simpa using h), crcFrom_cons, crcFrom_cons]

theorem crc16_eq (d : Payload) : crc16 d = crcFrom 0xFFFF#16 d.toList := by rw [crc16]

/-- Settles O24: the engine is linear in its start and its bytes, and the three starts add up to one. -/
theorem checksumAffine : Obligations.ChecksumAffine := by
  intro a b c
  have hstart : 0xFFFF#16 = 0xFFFF#16 ^^^ 0xFFFF#16 ^^^ 0xFFFF#16 := rfl
  simp only [crc16_eq, Vector.toList_zipWith]
  rw [hstart, crcFrom_xor (by simp), crcFrom_xor (by simp), ← hstart]

/-! ### A step of the engine can be undone -/

/-- The bit that leaves at the top comes in at the bottom, since the polynomial has a constant term. -/
theorem getLsbD_zero_crcShift (c : BitVec 16) : (crcShift c).getLsbD 0 = c.msb := by
  rw [crcShift_eq]
  cases c.msb <;> simp

theorem crcShift_injective : Function.Injective crcShift := by
  intro a b h
  have hmsb : a.msb = b.msb := by rw [← getLsbD_zero_crcShift, h, getLsbD_zero_crcShift]
  have hshift : a <<< 1 = b <<< 1 := by
    rwa [crcShift_eq, crcShift_eq, hmsb, BitVec.xor_left_inj] at h
  apply BitVec.eq_of_getLsbD_eq
  intro i hi
  obtain rfl | hlow : i = 15 ∨ i < 15 := by omega
  · exact hmsb
  · have hbit := congrArg (BitVec.getLsbD · (i + 1)) hshift
    simpa [show i + 1 < 16 by omega, ← BitVec.getLsbD_eq_getElem] using hbit

theorem crcShifts_injective (n : Nat) : Function.Injective (crcShifts n) := by
  induction n with
  | zero => exact Function.injective_id
  | succ n ih => exact ih.comp crcShift_injective

theorem crcByte_left_injective (b : Byte) : Function.Injective (crcByte · b) := fun _ _ h =>
  (BitVec.xor_left_inj _).mp (crcShifts_injective 8 h)

theorem crcByte_right_injective (c : BitVec 16) : Function.Injective (crcByte c) := by
  intro b b' h
  have hword : b ++ 0#8 = b' ++ 0#8 := (BitVec.xor_right_inj c).mp (crcShifts_injective 8 h)
  exact (append_eq_append_iff.mp hword).1

theorem crcFrom_injective (bytes : List Byte) : Function.Injective (crcFrom · bytes) := by
  induction bytes with
  | nil => exact Function.injective_id
  | cons b bytes ih => exact ih.comp (crcByte_left_injective b)

/-- Changing one byte changes the checksum. -/
theorem crc16_set_injective (d : Payload) (i : Nat) (h : i < 18) :
    Function.Injective fun b => crc16 (d.set i b) := by
  intro b b' hb
  have hlen : i < d.toList.length := by simpa using h
  simp only [crc16_eq, Vector.toList_set, List.set_eq_take_append_cons_drop, hlen, if_true, crcFrom_append,
    crcFrom_cons] at hb
  exact crcByte_right_injective _ (crcFrom_injective _ hb)

/-- Settles O25: a byte with one bit flipped is another byte. -/
theorem checksumDetectsOneBit : Obligations.ChecksumDetectsOneBit := by
  intro d i j hj h
  have hsame : d.set i d[i] = d := Vector.set_getElem_self i.isLt
  have hbyte : d[i] ^^^ (1#8 <<< j) = d[i] := crc16_set_injective d i i.isLt (h.trans (congrArg crc16 hsame).symm)
  have hbit := congrArg (BitVec.getLsbD · j) hbyte
  simp [hj] at hbit

/-! ### Two bytes at once -/

theorem crcShifts_add (m n : Nat) (c : BitVec 16) : crcShifts (m + n) c = crcShifts n (crcShifts m c) := by
  induction m generalizing c with
  | zero => rw [Nat.zero_add, crcShifts]
  | succ m ih => rw [Nat.succ_add, crcShifts, ih, crcShifts]

/-- While no bit leaves at the top, the engine only shifts. -/
theorem crcShifts_of_lt (n : Nat) (c : BitVec 16) (h : c.toNat * 2 ^ n < 2 ^ 16) : crcShifts n c = c <<< n := by
  induction n generalizing c with
  | zero => simp [crcShifts]
  | succ n ih =>
    have hpow : c.toNat * 2 * 2 ^ n < 2 ^ 16 := by rwa [mul_assoc, ← pow_succ']
    have hdouble : c.toNat * 2 < 2 ^ 16 := lt_of_le_of_lt (Nat.le_mul_of_pos_right _ (by positivity)) hpow
    have hmsb : c.msb = false := by
      rw [BitVec.msb_eq_false_iff_two_mul_lt]
      omega
    have hshift : (c <<< 1).toNat = c.toNat * 2 := by
      rw [BitVec.toNat_shiftLeft, Nat.shiftLeft_eq, pow_one, Nat.mod_eq_of_lt hdouble]
    have hstep : crcShift c = c <<< 1 := by simp [crcShift, hmsb]
    rw [crcShifts, hstep, ih _ (by rwa [hshift]), ← BitVec.shiftLeft_add, Nat.add_comm]

/-- Eight steps move the low byte to the high byte. -/
theorem crcShifts_lowByte (b : Byte) : crcShifts 8 (0#8 ++ b) = b ++ 0#8 := by
  have hlt : (0#8 ++ b).toNat * 2 ^ 8 < 2 ^ 16 := by
    rw [toNat_append_byte, BitVec.toNat_zero]
    omega
  rw [crcShifts_of_lt 8 _ hlt]
  apply BitVec.eq_of_toNat_eq
  rw [BitVec.toNat_shiftLeft, Nat.shiftLeft_eq, Nat.mod_eq_of_lt hlt, toNat_append_byte, toNat_append_byte]
  simp

/-- Two bytes into the engine are their 16 bits into `c`, then sixteen steps. -/
theorem crcFrom_pair (c : BitVec 16) (a b : Byte) : crcFrom c [a, b] = crcShifts 16 (c ^^^ (a ++ b)) := by
  have hsplit : a ++ b = (a ++ 0#8) ^^^ (0#8 ++ b) := by rw [BitVec.xor_append, BitVec.xor_zero, BitVec.zero_xor]
  calc crcFrom c [a, b]
      = crcShifts 8 (crcShifts 8 (c ^^^ (a ++ 0#8)) ^^^ (b ++ 0#8)) := rfl
    _ = crcShifts 8 (crcShifts 8 (c ^^^ (a ++ b))) := by
        rw [← crcShifts_lowByte b, ← crcShifts_xor, BitVec.xor_assoc, ← hsplit]
    _ = crcShifts 16 (c ^^^ (a ++ b)) := (crcShifts_add 8 8 _).symm

theorem crcShifts_bijective (n : Nat) : Function.Bijective (crcShifts n) :=
  Finite.injective_iff_bijective.mp (crcShifts_injective n)

theorem append_bijective : Function.Bijective fun ab : Byte × Byte => ab.1 ++ ab.2 := by
  constructor
  · rintro ⟨a, b⟩ ⟨a', b'⟩ h
    obtain ⟨rfl, rfl⟩ := append_eq_append_iff.mp h
    rfl
  · intro x
    exact ⟨(x.extractLsb' 8 8, x.extractLsb' 0 8), BitVec.extractLsb'_append_extractLsb'⟩

theorem xor_bijective (c : BitVec 16) : Function.Bijective (c ^^^ ·) := by
  have hinv : Function.Involutive (c ^^^ ·) := fun x => by simp
  exact hinv.bijective

theorem toList_set_last_two (d : Payload) (a b : Byte) :
    ((d.set 16 a).set 17 b).toList = d.toList.take 16 ++ [a, b] := by
  have hlen : d.toList.length = 18 := by simp
  simp [Vector.toList_set, List.set_eq_take_append_cons_drop, hlen, List.take_append, List.drop_append, List.take_take,
    List.drop_take]

/-- Settles O26: the checksum is a bijection of the last two bytes, seen as 16 bits. -/
theorem checksumLastBytesBijective : Obligations.ChecksumLastBytesBijective := by
  intro d v
  simp only [crc16_eq, toList_set_last_two, crcFrom_append, crcFrom_pair]
  exact ((crcShifts_bijective 16).comp ((xor_bijective _).comp append_bijective)).existsUnique v

/-! ### The table-driven form -/

/-- The entries of the table (R63). -/
theorem getD_crcTable : ∀ n : Byte, crcTable.getD n.toNat 0 = crcShifts 8 (n ++ 0#8) := by decide +kernel

theorem crcTableByte_eq_crcByte (c : BitVec 16) (b : Byte) : crcTableByte c b = crcByte c b := by
  have hc : (c.extractLsb' 8 8 ++ c.extractLsb' 0 8 : BitVec 16) = c :=
    BitVec.extractLsb'_append_extractLsb'
  generalize hhi : c.extractLsb' 8 8 = hi at *
  generalize hlo : c.extractLsb' 0 8 = lo at *
  calc crcTableByte c b
      = crcShifts 8 (0#8 ++ lo) ^^^ crcShifts 8 ((hi ^^^ b) ++ 0#8) := by
        rw [crcTableByte, hhi, hlo, getD_crcTable, crcShifts_lowByte]
    _ = crcShifts 8 ((hi ++ lo) ^^^ (b ++ 0#8)) := by
        rw [← crcShifts_xor, BitVec.xor_append, BitVec.xor_append, BitVec.zero_xor]
    _ = crcByte c b := by rw [hc, crcByte]

/-- Settles O23. -/
theorem tableFormAgrees : Obligations.TableFormAgrees := by
  refine ⟨by decide +kernel, getD_crcTable, fun d => ?_⟩
  have hbyte : crcTableByte = crcByte := funext₂ crcTableByte_eq_crcByte
  rw [crc16Table, hbyte, crc16_eq, crcFrom]

/-! ### The engine as polynomial arithmetic -/

section

open Polynomial

/-- The generator of R62. -/
noncomputable def crcGenerator : (ZMod 2)[X] := X ^ 16 + X ^ 15 + X ^ 2 + 1

/-- The polynomial over GF(2) whose coefficient at `x^i` is bit `i`. -/
noncomputable def bitPoly (n : Nat) (bit : Nat → Bool) : (ZMod 2)[X] :=
  ∑ i ∈ Finset.range n, if bit i then X ^ i else 0

/-- A list of bytes as a polynomial, first byte and most significant bit first. -/
noncomputable def bytesPoly (bytes : List Byte) : (ZMod 2)[X] :=
  bitPoly (8 * bytes.length) fun i => (bytes.getD (bytes.length - 1 - i / 8) 0#8).getLsbD (i % 8)

theorem bitPoly_congr {n : Nat} {f g : Nat → Bool} (h : ∀ i < n, f i = g i) : bitPoly n f = bitPoly n g :=
  Finset.sum_congr rfl fun i hi => by rw [h i (Finset.mem_range.mp hi)]

theorem bitPoly_add (m n : Nat) (f : Nat → Bool) :
    bitPoly (m + n) f = bitPoly m f + X ^ m * bitPoly n fun i => f (m + i) := by
  simp only [bitPoly, Finset.sum_range_add, Finset.mul_sum, mul_ite, mul_zero, pow_add]

theorem bitPoly_xor (n : Nat) (f g : Nat → Bool) :
    bitPoly n (fun i => f i ^^ g i) = bitPoly n f + bitPoly n g := by
  simp only [bitPoly, ← Finset.sum_add_distrib]
  refine Finset.sum_congr rfl fun i _ => ?_
  by_cases hf : f i = true <;> by_cases hg : g i = true <;> simp [hf, hg, CharTwo.add_self_eq_zero]

/-- A bit vector as a polynomial. -/
noncomputable def wordPoly {n : Nat} (c : BitVec n) : (ZMod 2)[X] := bitPoly n c.getLsbD

theorem wordPoly_xor {n : Nat} (a b : BitVec n) : wordPoly (a ^^^ b) = wordPoly a + wordPoly b := by
  simp only [wordPoly, ← bitPoly_xor, ← BitVec.getLsbD_xor]

theorem wordPoly_zero (n : Nat) : wordPoly 0#n = 0 := by simp [wordPoly, bitPoly]

theorem wordPoly_append {m n : Nat} (a : BitVec m) (b : BitVec n) :
    wordPoly (a ++ b) = wordPoly b + X ^ n * wordPoly a := by
  refine (congrArg (bitPoly · _) (Nat.add_comm m n)).trans ((bitPoly_add n m _).trans ?_)
  congr 1
  · exact bitPoly_congr fun i hi => by simp [BitVec.getLsbD_append, hi]
  · congr 1
    exact bitPoly_congr fun i _ => by simp [BitVec.getLsbD_append]

theorem wordPoly_eq_of_msb (c : BitVec 16) :
    wordPoly c = wordPoly (c.extractLsb' 0 15) + bif c.msb then X ^ 15 else 0 := by
  have hsplit : c.extractLsb' 15 1 ++ c.extractLsb' 0 15 = c := BitVec.extractLsb'_append_extractLsb'
  have htop : wordPoly (c.extractLsb' 15 1) = bif c.msb then 1 else 0 := by
    simp [wordPoly, bitPoly, BitVec.msb_eq_getLsbD_last]
  refine (congrArg wordPoly hsplit.symm).trans ((wordPoly_append _ _).trans ?_)
  rw [htop]
  cases c.msb <;> simp

theorem wordPoly_shiftLeft_one (c : BitVec 16) : wordPoly (c <<< 1) = X * wordPoly (c.extractLsb' 0 15) := by
  have hshift : c <<< 1 = c.extractLsb' 0 15 ++ 0#1 := by
    apply BitVec.eq_of_getLsbD_eq
    intro i hi
    cases i with
    | zero =>
      rw [BitVec.getLsbD_append]
      simp
    | succ i =>
      rw [BitVec.getLsbD_append]
      simpa [show i < 15 by omega] using fun _ => hi
  rw [hshift, wordPoly_append, wordPoly_zero, zero_add, pow_one]

theorem wordPoly_0x8005 : wordPoly 0x8005#16 = X ^ 15 + X ^ 2 + 1 := by
  simp [wordPoly, bitPoly, Finset.sum_range_succ]
  ring

/-- One step is multiplication by `x`, less the generator when bit 15 leaves. -/
theorem wordPoly_crcShift (c : BitVec 16) :
    wordPoly (crcShift c) = X * wordPoly c + bif c.msb then crcGenerator else 0 := by
  have htwo : (2 : (ZMod 2)[X]) = 0 := CharTwo.two_eq_zero
  rw [crcShift_eq, wordPoly_xor, wordPoly_shiftLeft_one, wordPoly_eq_of_msb c]
  cases c.msb
  · simp [wordPoly_zero]
  · simp only [cond_true, wordPoly_0x8005, crcGenerator]
    linear_combination (-X ^ 16) * htwo

/-- Polynomials modulo the generator. -/
noncomputable abbrev residue : (ZMod 2)[X] →+* AdjoinRoot crcGenerator := AdjoinRoot.mk crcGenerator

theorem residue_crcShift (c : BitVec 16) : residue (wordPoly (crcShift c)) = residue X * residue (wordPoly c) := by
  rw [wordPoly_crcShift]
  cases c.msb <;> simp

theorem residue_crcShifts (n : Nat) (c : BitVec 16) :
    residue (wordPoly (crcShifts n c)) = residue X ^ n * residue (wordPoly c) := by
  induction n generalizing c with
  | zero => simp [crcShifts]
  | succ n ih => rw [crcShifts, ih, residue_crcShift, pow_succ, mul_assoc]

theorem residue_crcByte (c : BitVec 16) (b : Byte) :
    residue (wordPoly (crcByte c b)) = residue (X ^ 16 * wordPoly b + X ^ 8 * wordPoly c) := by
  rw [crcByte, residue_crcShifts, wordPoly_xor, wordPoly_append, wordPoly_zero, ← map_pow, ← map_mul]
  refine congrArg residue ?_
  ring

/-- The first byte of a message stands above the others. -/
theorem bytesPoly_cons (b : Byte) (bytes : List Byte) :
    bytesPoly (b :: bytes) = bytesPoly bytes + X ^ (8 * bytes.length) * wordPoly b := by
  rw [bytesPoly, List.length_cons, Nat.mul_succ, bitPoly_add]
  refine congrArg₂ (· + X ^ (8 * bytes.length) * ·) (bitPoly_congr fun i hi => ?_) (bitPoly_congr fun i hi => ?_)
  · have hindex : bytes.length + 1 - 1 - i / 8 = (bytes.length - 1 - i / 8) + 1 := by omega
    rw [hindex, List.getD_cons_succ]
  · have hindex : bytes.length + 1 - 1 - (8 * bytes.length + i) / 8 = 0 := by omega
    have hbit : (8 * bytes.length + i) % 8 = i := by omega
    rw [hindex, hbit, List.getD_cons_zero]

/-- The engine reduces its start and its message, times `x^16`, modulo the generator. -/
theorem residue_crcFrom (c : BitVec 16) (bytes : List Byte) :
    residue (wordPoly (crcFrom c bytes)) =
      residue (X ^ 16 * bytesPoly bytes + X ^ (8 * bytes.length) * wordPoly c) := by
  induction bytes generalizing c with
  | nil => simp [crcFrom, bytesPoly, bitPoly]
  | cons b bytes ih =>
    rw [crcFrom_cons, ih, map_add, map_mul _ _ (wordPoly _), residue_crcByte, ← map_mul, ← map_add, bytesPoly_cons,
      List.length_cons]
    refine congrArg residue ?_
    ring

/-- Settles O22: the engine's result and the message have one residue, so over GF(2) they add up to zero. -/
theorem checksumIsPolynomialRemainder : Obligations.ChecksumIsPolynomialRemainder := by
  intro d poly message start check
  have hbits : 8 * d.toList.length = 144 := by simp
  have hmessage : bytesPoly d.toList = message := by
    rw [bytesPoly, hbits, Vector.length_toList]
    rfl
  have hrem : residue check = residue (X ^ 16 * message + X ^ 144 * start) := by
    rw [← hmessage, ← hbits]
    refine .trans ?_ (residue_crcFrom 0xFFFF#16 d.toList)
    rw [← crc16_eq]
    rfl
  have hsum : residue (X ^ 16 * message + X ^ 144 * start + check) = 0 := by
    rw [map_add, hrem, ← map_add, CharTwo.add_self_eq_zero, map_zero]
  exact AdjoinRoot.mk_eq_zero.mp hsum

end

/-! ### The command CKSUM -/

/-- Settles O20: a command with CKSUM's opcode is CKSUM, and the decoder takes it only with zero reserved bits. -/
theorem cksumWritesCsum : Obligations.CksumWritesCsum := by
  refine ⟨fun p w hop hres i hi => ?_, exec_cksum, rfl, by decide +kernel, by decide +kernel⟩
  obtain ⟨-, hop', hmatch⟩ := decode_eq_ok_iff.mp hi
  cases i with
  | cksum d => exact hres hmatch.1
  | ldser n | decraw d | dec d | pwr n => exact absurd (hop'.symm.trans hop) (by simp [Instr.opcode])

/-- Settles O21. -/
theorem sourceChecksums : Obligations.SourceChecksums := by
  constructor <;> decide +kernel

end Sys2Proof.Machine

/-!
PROOFS. 41_construct.md: the keystream holds the four bytes of the obfuscation base, so that the base and with it the
serial can be read back from it; and the command LDSER (R67 to R72).
-/

namespace Sys2Proof.Machine

/-! ### The keystream -/

/-- The base's bytes, most significant first, stand in the keystream at 2, 1, 4 and 3 (R69). -/
theorem obfuscationBase_eq_append (n : BitVec 32) :
    obfuscationBase n = (derive n)[2] ++ (derive n)[1] ++ (derive n)[4] ++ (derive n)[3] := by
  change obfuscationBase n = (obfuscationBase n).extractLsb' 24 8 ++ (obfuscationBase n).extractLsb' 16 8 ++
    (obfuscationBase n).extractLsb' 8 8 ++ (obfuscationBase n).extractLsb' 0 8
  rw [BitVec.extractLsb'_append_extractLsb'_eq_extractLsb' (by rfl),
    BitVec.extractLsb'_append_extractLsb'_eq_extractLsb' (by rfl),
    BitVec.extractLsb'_append_extractLsb'_eq_extractLsb' (by rfl)]
  exact BitVec.extractLsb'_eq_self.symm

theorem obfuscationBase_toNat (n : BitVec 32) : (obfuscationBase n).toNat = (n.toNat + 0x8AEF9335) % 2 ^ 32 :=
  BitVec.toNat_add ..

theorem obfuscationBase_injective : Function.Injective obfuscationBase := fun _ _ h =>
  (BitVec.add_left_inj _).mp h

theorem derive_injective : Function.Injective derive := fun m n h =>
  obfuscationBase_injective (by rw [obfuscationBase_eq_append, h, ← obfuscationBase_eq_append])

/-- Settles O17: the base is the four keystream bytes one after the other, each a digit in base 256. -/
theorem baseWraps : Obligations.BaseWraps := by
  refine fun n => ⟨obfuscationBase_toNat n, by omega, ?_⟩
  rw [obfuscationBase_eq_append, toNat_append_byte, toNat_append_byte, toNat_append_byte]
  omega

/-- Settles O18: the keystream determines the base, and the base the serial. -/
theorem keystreamInjective : Obligations.KeystreamInjective := ⟨fun _ _ h => derive_injective h, fun _ => rfl⟩

/-! ### The instance registers -/

/-- Every command but LDSER leaves the instance as it was (R72). -/
theorem exec_keeps_instance {i : Instr} {s t : State} (hi : ∀ n, i ≠ .ldser n) (h : exec i s = .next t) :
    t.serial = s.serial ∧ t.key = s.key ∧ t.kvalid = s.kvalid := by
  rcases exec_cases h with ⟨n, rfl, -⟩ | ⟨d, -, rfl⟩ | ⟨r, -, -, rfl⟩ | ⟨n, -, -, -, -, rfl⟩ | ⟨c, rfl, -⟩
  · exact absurd rfl (hi n)
  all_goals simp

/-- Settles O19: the word runs another command or raises IllegalCommand. -/
theorem onlyLdserWritesInstance : Obligations.OnlyLdserWritesInstance := by
  intro s t w rest hs hw h
  rcases step_command_cases hs h with ⟨i, hd, hi⟩ | ⟨-, rfl⟩
  · exact exec_keeps_instance (s := { s with inputs := rest }) (fun n hn => hw n (hn ▸ hd)) hi
  · exact ⟨rfl, rfl, rfl⟩

/-! ### The command LDSER -/

/-- Settles O16: a command with LDSER's opcode is LDSER, and the decoder takes it only with zero reserved bits. -/
theorem ldserConstructs : Obligations.LdserConstructs := by
  refine ⟨fun p w hop hres i hi => ?_, exec_ldser⟩
  obtain ⟨-, hop', hmatch⟩ := decode_eq_ok_iff.mp hi
  cases i with
  | ldser n =>
    obtain ⟨hzero, -⟩ := hmatch
    exact hres hzero
  | cksum d | decraw d | dec d | pwr n => exact absurd (hop'.symm.trans hop) (by simp [Instr.opcode])

end Sys2Proof.Machine

/-!
PROOFS. 42_decode_raw.md: the plain bytes and the streaming pipeline that computes them, the six fields and their
inverse, and the outcomes of DECRAW and DEC, which end one raw decode (R73 to R90).
-/

namespace Sys2Proof.Machine

/-! ### The plain bytes -/

/-- The plain byte at index `i` of a payload byte `b` (R75). -/
def plainByte (key : Keystream) (i : Nat) (b : Byte) : Byte :=
  if i < 3 then b else b ^^^ key[(i - 3) % 5]'(Nat.mod_lt _ (by decide))

theorem plainByte_plainByte (key : Keystream) (i : Nat) (b : Byte) :
    plainByte key i (plainByte key i b) = b := by
  unfold plainByte
  split
  · rfl
  · rw [BitVec.xor_assoc, BitVec.xor_self, BitVec.xor_zero]

/-- De-obfuscation works byte by byte (R75). -/
theorem deobfuscate_eq_mapIdx (key : Keystream) (d : Payload) :
    deobfuscate key d = d.mapIdx (plainByte key) := by
  ext i hi
  simp [deobfuscate, plainByte]

theorem getElem_deobfuscate (key : Keystream) (d : Payload) (i : Nat) (h : i < 18) :
    (deobfuscate key d)[i] = plainByte key i d[i] := by
  simp [deobfuscate_eq_mapIdx]

theorem deobfuscate_involutive (key : Keystream) : Function.Involutive (deobfuscate key) := by
  intro d
  ext i hi
  rw [getElem_deobfuscate, getElem_deobfuscate, plainByte_plainByte]

/-- Settles O29: the two cases of a plain byte, and the XOR undone by itself. -/
theorem plainBytes : Obligations.PlainBytes := by
  refine fun key d => ⟨fun i h => ?_, fun i h3 h => ?_, deobfuscate_involutive key d⟩
  · rw [getElem_deobfuscate, plainByte, if_pos h]
  · rw [getElem_deobfuscate, plainByte, if_neg (Nat.not_lt.mpr h3)]

/-! ### The streaming pipeline -/

/-- The keystream index is the one R75 gives for the byte counter: 0 up to byte 3, then cycling (R84). -/
def PipelineCounters.InStep (c : PipelineCounters) : Prop := c.k.val = (c.i - 3) % 5

theorem pipelineNext_inStep {c : PipelineCounters} (h : c.InStep) : (pipelineNext c).InStep := by
  unfold PipelineCounters.InStep pipelineNext at *
  dsimp only
  split_ifs with hi hk
  · simp only [Fin.val_zero]
    omega
  · rw [hk] at h
    simp only [Fin.val_zero]
    omega
  · rw [Fin.val_add_one_of_lt (Fin.lt_last_iff_ne_last.mpr hk)]
    omega

theorem pipelineByte_eq_plainByte (key : Keystream) {c : PipelineCounters} (h : c.InStep) (b : Byte) :
    pipelineByte key c b = plainByte key c.i b := by
  unfold PipelineCounters.InStep at h
  simp [pipelineByte, plainByte, h]

/-- From counters in step, the pipeline puts out the plain bytes from its byte counter on (R84). -/
theorem pipelineFrom_eq_mapIdx (key : Keystream) {c : PipelineCounters} (h : c.InStep) (bytes : List Byte) :
    pipelineFrom key c bytes = bytes.mapIdx fun j => plainByte key (c.i + j) := by
  induction bytes generalizing c with
  | nil => rfl
  | cons b rest ih =>
    rw [pipelineFrom, pipelineByte_eq_plainByte key h, ih (pipelineNext_inStep h), List.mapIdx_cons]
    simp [pipelineNext, Nat.add_assoc, Nat.add_comm 1]

/-- Settles O30: the counters start in step and stay so, byte by byte. -/
theorem pipelineComputesPlainBytes : Obligations.PipelineComputesPlainBytes := by
  intro key d
  rw [pipeline, pipelineFrom_eq_mapIdx key (c := pipelineStart) rfl, deobfuscate_eq_mapIdx,
    Vector.toList_mapIdx]
  simp [pipelineStart]

/-! ### The fields -/

theorem be16_eq_iff (a b : Byte) (x : BitVec 16) :
    be16 a b = x ↔ a = x.extractLsb' 8 8 ∧ b = x.extractLsb' 0 8 := by
  have hx : be16 (x.extractLsb' 8 8) (x.extractLsb' 0 8) = x := BitVec.extractLsb'_append_extractLsb'
  conv_lhs => rw [← hx]
  exact append_eq_append_iff

theorem be32_eq_iff (a b c d : Byte) (x : BitVec 32) :
    be32 a b c d = x ↔ a = x.extractLsb' 24 8 ∧ b = x.extractLsb' 16 8 ∧ c = x.extractLsb' 8 8 ∧
      d = x.extractLsb' 0 8 := by
  have hx : be32 (x.extractLsb' 24 8) (x.extractLsb' 16 8) (x.extractLsb' 8 8) (x.extractLsb' 0 8) = x := by
    rw [be32, BitVec.extractLsb'_append_extractLsb'_eq_extractLsb' (by rfl),
      BitVec.extractLsb'_append_extractLsb'_eq_extractLsb' (by rfl), BitVec.extractLsb'_append_extractLsb']
  conv_lhs => rw [← hx]
  rw [be32, be32, append_eq_append_iff, append_eq_append_iff, append_eq_append_iff, and_assoc, and_assoc]

/-- The plain bytes with given bytes 0 to 2 and given fields: the inverse of the field extractor (R85 item 2). -/
def plainPayload (b0 b1 b2 : Byte) (r : Record) : Payload :=
  #v[b0, b1, b2, r.status.extractLsb' 8 8, r.status.extractLsb' 0 8,
    r.serial.extractLsb' 24 8, r.serial.extractLsb' 16 8, r.serial.extractLsb' 8 8, r.serial.extractLsb' 0 8,
    r.seq.extractLsb' 8 8, r.seq.extractLsb' 0 8, r.tbp.extractLsb' 8 8, r.tbp.extractLsb' 0 8,
    r.pulses.extractLsb' 24 8, r.pulses.extractLsb' 16 8, r.pulses.extractLsb' 8 8, r.pulses.extractLsb' 0 8,
    r.batt]

theorem eq_plainPayload_iff (p : Payload) (b0 b1 b2 : Byte) (r : Record) :
    (p[0] = b0 ∧ p[1] = b1 ∧ p[2] = b2) ∧ fieldsOf p = r ↔ p = plainPayload b0 b1 b2 r := by
  cases r
  simp only [fieldsOf, Record.mk.injEq, be16_eq_iff, be32_eq_iff]
  constructor
  · rintro ⟨⟨h0, h1, h2⟩, ⟨h9, h10⟩, ⟨h11, h12⟩, ⟨h13, h14, h15, h16⟩, h17, ⟨h3, h4⟩, h5, h6, h7, h8⟩
    ext i hi
    interval_cases i <;> simp [plainPayload, *]
  · rintro rfl
    simp [plainPayload]

/-- Settles O31: de-obfuscation is a bijection that keeps bytes 0 to 2, and the plain bytes are determined. -/
theorem fieldsBijective : Obligations.FieldsBijective := by
  intro key r b0 b1 b2
  have hplain (d : Payload) : (d[0] = b0 ∧ d[1] = b1 ∧ d[2] = b2) ∧ fieldsOf (deobfuscate key d) = r ↔
      deobfuscate key d = plainPayload b0 b1 b2 r := by
    obtain ⟨hpass, -, -⟩ := plainBytes key d
    rw [← eq_plainPayload_iff, hpass 0 (by decide), hpass 1 (by decide), hpass 2 (by decide)]
  simp only [hplain]
  exact (deobfuscate_involutive key).bijective.existsUnique _

/-- The six fields of a payload, written out with the key bytes (R77). -/
def keyedFields (key : Keystream) (d : Payload) : Record where
  status := be16 (d[3] ^^^ key[0]) (d[4] ^^^ key[1])
  serial := be32 (d[5] ^^^ key[2]) (d[6] ^^^ key[3]) (d[7] ^^^ key[4]) (d[8] ^^^ key[0])
  seq := be16 (d[9] ^^^ key[1]) (d[10] ^^^ key[2])
  tbp := be16 (d[11] ^^^ key[3]) (d[12] ^^^ key[4])
  pulses := be32 (d[13] ^^^ key[0]) (d[14] ^^^ key[1]) (d[15] ^^^ key[2]) (d[16] ^^^ key[3])
  batt := d[17] ^^^ key[4]

theorem fieldsOf_deobfuscate (key : Keystream) (d : Payload) :
    fieldsOf (deobfuscate key d) = keyedFields key d := by
  simp [keyedFields, fieldsOf, deobfuscate]

/-! ### The outcomes of raw decode -/

/-- Raw decode, its three checks written out (R74, R78, R79). -/
theorem rawDecode_eq (serial : BitVec 32) (key : Keystream) (d : Payload) : rawDecode serial key d =
    if d[0] = 17#8 then
      if ((keyedFields key d).seq.extractLsb' 0 7).setWidth 8 = d[2] then
        if (keyedFields key d).serial.toNat = serial.toNat % 1000000 then .ok (keyedFields key d)
        else .error .badSerial
      else .error .badPacketCount
    else .error .badLength := by
  simp only [rawDecode, fieldsOf_deobfuscate, lengthOk_iff, echoOk_iff, serialOk_iff]

/-- With an instance, DECRAW ends the raw decode of its operand (R82). -/
theorem exec_decraw_valid (d : Payload) {s : State} (hk : s.kvalid = true) :
    exec (.decraw d) s = .next (s.finishDecode (rawDecode s.serial s.key d)) := by
  rw [exec_decraw, decodeCommand_valid _ hk]

/-- Settles O32: all three checks hold, and the record is the fields written out. -/
theorem decrawAccepts : Obligations.DecrawAccepts := by
  intro d s k seq serialField hk hlength hecho hserial
  have hraw : rawDecode s.serial s.key d = .ok (keyedFields s.key d) :=
    (rawDecode_eq ..).trans <| (if_pos hlength).trans <| (if_pos hecho).trans (if_pos hserial)
  rw [exec_decraw_valid d hk, hraw]
  rfl

/-- Settles O33: raw decode ends at the first check that fails. -/
theorem decrawRejects : Obligations.DecrawRejects := by
  intro d s hk k seq serialField failed
  have fails (kind : ErrorKind) (h : rawDecode s.serial s.key d = .error kind) :
      exec (.decraw d) s = failed (errCode kind) := by
    rw [exec_decraw_valid d hk, h]
    rfl
  rw [rawDecode_eq] at fails
  refine ⟨fun hlength => fails .badLength (if_neg hlength), fun hlength hecho => fails .badPacketCount ?_,
    fun hlength hecho hserial => fails .badSerial ?_⟩
  · exact (if_pos hlength).trans (if_neg hecho)
  · exact (if_pos hlength).trans <| (if_pos hecho).trans (if_neg hserial)

/-- Settles O35: neither the checks nor the fields read byte 1. -/
theorem dataByteOneIgnored : Obligations.DataByteOneIgnored := by
  intro d b s
  have hfields (key : Keystream) : keyedFields key (d.set 1 b) = keyedFields key d := by simp [keyedFields]
  have hraw (serial : BitVec 32) (key : Keystream) :
      rawDecode serial key (d.set 1 b) = rawDecode serial key d := by
    rw [rawDecode_eq, rawDecode_eq, hfields, Vector.getElem_set_ne _ _ (by decide),
      Vector.getElem_set_ne _ _ (by decide)]
  simp only [exec_decraw, hraw]

/-! ### The packets raw decode accepts -/

theorem lowSevenBits_eq_and (b : Byte) : (b.extractLsb' 0 7).setWidth 8 = b &&& 0x7F#8 := by
  apply BitVec.eq_of_toNat_eq
  suffices b.toNat % 128 < 256 by simpa [Nat.and_two_pow_sub_one_eq_mod _ 7]
  omega

/-- Only byte 10 matters to the sequence echo (R78). -/
theorem echo_be16 (a b : Byte) : ((be16 a b).extractLsb' 0 7).setWidth 8 = b &&& 0x7F#8 := by
  rw [be16, BitVec.extractLsb'_append_eq_of_add_le (by decide), lowSevenBits_eq_and]

theorem xor_eq_iff_eq_xor {n : Nat} (a b c : BitVec n) : a ^^^ b = c ↔ a = c ^^^ b := by
  rw [← BitVec.xor_left_inj b, BitVec.xor_assoc, BitVec.xor_self, BitVec.xor_zero]

theorem exists_rawDecode_ok_iff (serial : BitVec 32) (key : Keystream) (d : Payload) :
    (∃ r, rawDecode serial key d = .ok r) ↔
      d[0] = 17#8 ∧ ((keyedFields key d).seq.extractLsb' 0 7).setWidth 8 = d[2] ∧
        (keyedFields key d).serial.toNat = serial.toNat % 1000000 := by
  simp only [rawDecode_ok_iff, fieldsOf_deobfuscate, lengthOk_iff, echoOk_iff, serialOk_iff, exists_and_left,
    exists_eq, and_true]

/-- The decoded serial field is a number exactly when its four bytes are that number's, obfuscated. -/
theorem keyedFields_serial_eq_iff (key : Keystream) (d : Payload) (x : BitVec 32) :
    (keyedFields key d).serial = x ↔
      d[5] = x.extractLsb' 24 8 ^^^ key[2] ∧ d[6] = x.extractLsb' 16 8 ^^^ key[3] ∧
        d[7] = x.extractLsb' 8 8 ^^^ key[4] ∧ d[8] = x.extractLsb' 0 8 ^^^ key[0] := by
  simp only [keyedFields, be32_eq_iff, xor_eq_iff_eq_xor]

/-- Settles O36: the echo is the low bits of plain byte 10, and the serial field is compared byte by byte. -/
theorem acceptedPayloads : Obligations.AcceptedPayloads := by
  intro d n
  rw [exists_rawDecode_ok_iff]
  refine and_congr_right fun _ => and_congr ?_ ?_
  · rw [keyedFields, echo_be16, eq_comm]
  · simp only [← keyedFields_serial_eq_iff, exists_eq_right']

/-- The sequence echo is below 128 (R78). -/
theorem msb_echo (seq : BitVec 16) : ((seq.extractLsb' 0 7).setWidth 8).msb = false := by
  simp [BitVec.msb_setWidth]

/-- Settles O37: an accepted record carries the packet's echo, whose bit 7 is zero. -/
theorem echoBitSevenRejected : Obligations.EchoBitSevenRejected := by
  intro s t
  obtain ⟨hdecraw, hdec⟩ := recordCarriesEcho s t
  refine ⟨fun d hmsb hk h => Bool.eq_false_of_not_eq_true fun hr => ?_,
    fun d hmsb hk h => Bool.eq_false_of_not_eq_true fun hr => ?_⟩
  · rw [← hdecraw d hk h hr, msb_echo] at hmsb
    contradiction
  · rw [← hdec d hk h hr, msb_echo] at hmsb
    contradiction

/-- Settles O38, by evaluating both decodes of the packet. -/
theorem wrongSerialAccepted : Obligations.WrongSerialAccepted := by
  constructor <;> decide +kernel

/-! ### Checked decode -/

@[simp] theorem getElem_payloadOf (d : Buffer) (i : Nat) (h : i < 18) : (payloadOf d)[i] = d[i] := by
  simp [payloadOf]

theorem checksumOk_iff (ck : Payload → BitVec 16) (d : Buffer) :
    checksumOk ck d = true ↔ ck (payloadOf d) = d[18] ++ d[19] := by
  obtain ⟨-, htwo, -⟩ := memReadBigEndian 20 d 18
  rw [checksumOk, beq_iff_eq, htwo]

/-- When the checksum passes, DEC is DECRAW of bytes 0 to 17 (R89). -/
theorem decUnder_eq_decraw {ck : Payload → BitVec 16} {d : Buffer} (h : ck (payloadOf d) = d[18] ++ d[19])
    (s : State) : decUnder ck d s = exec (.decraw (payloadOf d)) s := by
  simp only [decUnder_eq, exec_decraw, checkedDecode_eq, if_pos ((checksumOk_iff ck d).mpr h)]

/-- When the checksum fails, DEC ends in BadCRC (R88). -/
theorem decUnder_badCRC {ck : Payload → BitVec 16} {d : Buffer} {s : State} (hk : s.kvalid = true)
    (h : ck (payloadOf d) ≠ d[18] ++ d[19]) : decUnder ck d s = .next (s.failDecode .badCRC) := by
  rw [decUnder_eq, decodeCommand_valid _ hk, checkedDecode_eq, if_neg (mt (checksumOk_iff ck d).mp h)]
  rfl

/-- Settles O40: a failed checksum is BadCRC, and otherwise DEC rejects what DECRAW rejects. -/
theorem decRejects : Obligations.DecRejects := by
  intro ck d s hk k seq serialField failed
  obtain ⟨hlength, hecho, hserial⟩ := decrawRejects (payloadOf d) s hk
  simp only [getElem_payloadOf] at hlength hecho hserial
  exact ⟨decUnder_badCRC hk, fun hck => decUnder_eq_decraw hck s ▸ hlength,
    fun hck => decUnder_eq_decraw hck s ▸ hecho, fun hck => decUnder_eq_decraw hck s ▸ hserial,
    exec_dec_under d s⟩

end Sys2Proof.Machine

/-!
PROOFS. 43_decode_checked.md: DEC, whose checksum guards the raw decode of bytes 0 to 17 (R87 to R91).
-/

namespace Sys2Proof.Machine

/-! ### Bytes 0 to 17 of a buffer -/

theorem eq_payloadOf {p : Payload} {d : Buffer} (h : ∀ (j : Nat) (_ : j < 18), p[j] = d[j]) :
    p = payloadOf d := by
  ext j hj
  rw [h j hj, getElem_payloadOf]

/-- Bytes 18 and 19 are no part of the payload (R89). -/
theorem payloadOf_set_checksum (d : Buffer) (x y : Byte) : payloadOf ((d.set 18 x).set 19 y) = payloadOf d := by
  refine (eq_payloadOf fun j hj => ?_).symm
  rw [getElem_payloadOf, Vector.getElem_set_ne _ _ (by omega), Vector.getElem_set_ne _ _ (by omega)]

theorem checksum_ne_of_changed {ck : Payload → BitVec 16} {d : Buffer} {x y : Byte}
    (hck : ck (payloadOf d) = d[18] ++ d[19]) (hchanged : (x, y) ≠ (d[18], d[19])) :
    let d' := (d.set 18 x).set 19 y
    ck (payloadOf d') ≠ d'[18] ++ d'[19] := by
  intro d' heq
  have hx : d'[18] = x := by simp [d']
  have hy : d'[19] = y := by simp [d']
  rw [payloadOf_set_checksum, hck, hx, hy] at heq
  obtain ⟨h18, h19⟩ := append_eq_append_iff.mp heq
  exact hchanged (by rw [h18, h19])

/-! ### The command DEC -/

/-- Settles O39: the checksum passes, so DEC is DECRAW of bytes 0 to 17, which accepts. -/
theorem decAccepts : Obligations.DecAccepts := by
  intro d s k seq serialField hk hck hlength hecho hserial
  have haccepts := decrawAccepts (payloadOf d) s hk
  simp only [getElem_payloadOf] at haccepts
  rw [exec_dec_under, decUnder_eq_decraw hck]
  exact haccepts hlength hecho hserial

/-- Settles O41: the payload is bytes 0 to 17 of the buffer. -/
theorem decAgreesWithDecraw : Obligations.DecAgreesWithDecraw := by
  intro ck d p s hbytes hck
  rw [eq_payloadOf hbytes] at hck ⊢
  exact decUnder_eq_decraw hck s

/-- Settles O42: the payload keeps its checksum, which differs from the changed bytes. -/
theorem changedChecksumIsBadCRC : Obligations.ChangedChecksumIsBadCRC :=
  fun _ _ _ _ _ hk hck hchanged => decUnder_badCRC hk (checksum_ne_of_changed hck hchanged)

end Sys2Proof.Machine

/-!
PROOFS. 44_power.md: the truncated quotient of PWR and its three faults (R92 to R95, R98).
-/

namespace Sys2Proof.Machine

/-! ### How PWR ends -/

section
variable {n : BitVec 32} {s : State}

theorem exec_pwr_noRecord (hr : s.rvalid = false) : exec (.pwr n) s = .next (s.raise .noRecord) :=
  if_neg (by simp [hr])

theorem exec_pwr_divideByZero (hr : s.rvalid = true) (hzero : n.toNat * s.record.tbp.toNat = 0) :
    exec (.pwr n) s = .next (s.raise .divideByZero) :=
  (if_pos hr).trans (if_pos hzero)

theorem exec_pwr_powerOverflow (hr : s.rvalid = true) (hlarge : 2 ^ 32 ≤ n.toNat * s.record.tbp.toNat) :
    exec (.pwr n) s = .next (s.raise .powerOverflow) :=
  (if_pos hr).trans <| (if_neg ((Nat.two_pow_pos 32).trans_le hlarge).ne').trans (if_pos hlarge)

theorem exec_pwr_putPower (hr : s.rvalid = true) (hpos : 0 < n.toNat * s.record.tbp.toNat)
    (hsmall : n.toNat * s.record.tbp.toNat < 2 ^ 32) :
    exec (.pwr n) s = .next (s.putPower (powerQuotient (n.toNat * s.record.tbp.toNat))) :=
  (if_pos hr).trans <| (if_neg hpos.ne').trans (if_neg hsmall.not_ge)

/-- A PWR that completes had a product other than zero, and wrote the quotient (R92). -/
theorem exec_pwr_ok {t : State} (h : exec (.pwr n) s = .next t) (hok : t.completion = some .ok) :
    0 < n.toNat * s.record.tbp.toNat ∧ t.power = powerQuotient (n.toNat * s.record.tbp.toNat) := by
  rcases exec_pwr_cases h with ⟨-, rfl⟩ | ⟨-, -, rfl⟩ | ⟨-, -, rfl⟩ | ⟨-, hpos, -, rfl⟩
  · simp at hok
  · simp at hok
  · simp at hok
  · exact ⟨hpos, rfl⟩

/-- PWR overflows only with a product of 2^32 or more (R95). -/
theorem le_product_of_exec_pwr_powerOverflow {t : State} (h : exec (.pwr n) s = .next t)
    (hover : t.completion = some (.faulted .powerOverflow)) : 2 ^ 32 ≤ n.toNat * s.record.tbp.toNat := by
  rcases exec_pwr_cases h with ⟨-, rfl⟩ | ⟨-, -, rfl⟩ | ⟨-, hlarge, -⟩ | ⟨-, -, -, rfl⟩
  · simp at hover
  · simp at hover
  · exact hlarge
  · simp at hover

end

/-! ### The product and the quotient -/

/-- 65537 * 65535 = 2^32 - 1 (R95). -/
theorem product_lt_of_le {n : BitVec 32} (h : n.toNat ≤ 65537) (tbp : BitVec 16) :
    n.toNat * tbp.toNat < 2 ^ 32 :=
  calc n.toNat * tbp.toNat ≤ 65537 * 65535 := Nat.mul_le_mul h (Nat.le_pred_of_lt tbp.isLt)
    _ < 2 ^ 32 := by decide

theorem product_eq_zero_iff (n : BitVec 32) (tbp : BitVec 16) :
    n.toNat * tbp.toNat = 0 ↔ n = 0 ∨ tbp = 0 := by
  simp [BitVec.toNat_eq]

/-- The quotient is at most the dividend, so the register holds it whole (R93). -/
theorem toNat_powerQuotient (d : Nat) : (powerQuotient d).toNat = 3686400000 / d :=
  (BitVec.toNat_ofNat ..).trans <| Nat.mod_eq_of_lt ((Nat.div_le_self _ d).trans_lt (by decide))

/-- Half the dividend is 1843200000 (R93). -/
theorem dividend_div_eq_one {d : Nat} (hlow : 1843200001 ≤ d) (hhigh : d ≤ 3686400000) :
    3686400000 / d = 1 :=
  Nat.div_eq_of_lt_le (by omega) (by omega)

/-! ### The command PWR -/

/-- Settles O44: `POWER` is the quotient as a number, and the bounds are those of truncated division. -/
theorem pwrValue : Obligations.PwrValue := by
  intro n s t h hok d
  obtain ⟨hpos, hpower⟩ := exec_pwr_ok h hok
  have hquotient : t.power.toNat = 3686400000 / d := hpower ▸ toNat_powerQuotient d
  refine ⟨?_, ?_, fun hd => ?_, fun hlow hhigh => ?_⟩
  · rw [hquotient]
    exact Nat.div_mul_le_self ..
  · rw [hquotient, Nat.mul_comm]
    exact Nat.lt_mul_div_succ _ hpos
  · exact BitVec.eq_of_toNat_eq (hquotient.trans (Nat.div_eq_of_lt hd))
  · exact BitVec.eq_of_toNat_eq (hquotient.trans (dividend_div_eq_one hlow hhigh))

/-- A state whose record has the greatest time between pulses. -/
def State.withGreatestTbp : State :=
  { State.reset with rvalid := true, record := { Record.zero with tbp := 65535 } }

/-- Settles O46: above 65537, the greatest time between pulses makes the product 2^32 or more. -/
theorem pwrOverflowBound : Obligations.PwrOverflowBound := by
  refine ⟨fun n s t hn h hover => ?_, fun n hn => ?_⟩
  · exact (product_lt_of_le hn s.record.tbp).not_ge (le_product_of_exec_pwr_powerOverflow h hover)
  · have hlarge : 2 ^ 32 ≤ n.toNat * State.withGreatestTbp.record.tbp.toNat :=
      calc 2 ^ 32 ≤ 65538 * 65535 := by decide
        _ ≤ n.toNat * 65535 := Nat.mul_le_mul_right _ hn
    exact ⟨State.withGreatestTbp, _, exec_pwr_powerOverflow rfl hlarge, rfl⟩

/-- Settles O43. -/
theorem pwrCompletes : Obligations.PwrCompletes :=
  fun _ _ hr hpos hsmall => exec_pwr_putPower hr hpos (Nat.lt_of_le_pred (by decide) hsmall)

/-- Settles O45: the three faults of R94, R95 and R98, and when the product can raise them. -/
theorem pwrFaults : Obligations.PwrFaults :=
  fun n s => ⟨product_eq_zero_iff n s.record.tbp, fun hn => product_lt_of_le hn s.record.tbp,
    exec_pwr_noRecord, exec_pwr_divideByZero, exec_pwr_powerOverflow⟩

end Sys2Proof.Machine

/-!
PROOFS. 60_exceptions.md: a run takes the host's events one by one (R107), a command ends in one of three ways
(R100), and which fault a command word raises (R103 to R105).
-/

namespace Sys2Proof.Machine

/-! ### When a fault is raised -/

/-- A command on which a fault stands raises it, and that is all it does (R104). -/
theorem exec_of_raises {i : Instr} {s : State} {c : FaultCause} (h : Raises i s c) :
    exec i s = .next (s.raise c) := by
  rcases h with ⟨rfl, hk, ⟨d, rfl⟩ | ⟨d, rfl⟩⟩ | ⟨n, rfl, ⟨rfl, hr⟩ | ⟨rfl, hr, hzero⟩ | ⟨rfl, hr, hlarge⟩⟩
  · rw [exec_decraw, decodeCommand_noKey _ hk]
  · rw [exec_dec, decodeCommand_noKey _ hk]
  · exact exec_pwr_noRecord hr
  · exact exec_pwr_divideByZero hr hzero
  · exact exec_pwr_powerOverflow hr hlarge

/-- A command's completion carries a cause exactly when the command raises that fault. -/
theorem exec_faulted_iff {i : Instr} {s t : State} {c : FaultCause} (h : exec i s = .next t) :
    t.completion = some (.faulted c) ↔ Raises i s c := by
  constructor
  · intro hc
    rcases exec_cases h with ⟨n, -, rfl⟩ | ⟨d, -, rfl⟩ | ⟨r, -, -, rfl⟩ | ⟨n, -, -, -, -, rfl⟩ | ⟨c', rfl, hraises⟩
    · simp at hc
    · simp at hc
    · simp at hc
    · simp at hc
    · obtain rfl : c' = c := by simpa using hc
      exact hraises
  · intro hraises
    obtain rfl : s.raise c = t := by simpa [exec_of_raises hraises] using h
    rfl

/-- The word raises the fault: it is no command, or the command it decodes to raises it (R103, R105). -/
def WordRaises (w : CommandWord) (s : State) (c : FaultCause) : Prop :=
  (c = .illegalCommand ∧ ∀ i, decode config.hasPower w ≠ .ok i) ∨
  ∃ i, decode config.hasPower w = .ok i ∧ Raises i s c

section
variable {s t : State} {w : CommandWord} {rest : List HostEvent} {c : FaultCause}

/-- A step's completion carries a cause exactly when the command word raises that fault. -/
theorem step_faulted_iff (hs : s.inputs = .command w :: rest) (h : step s = .next t) :
    t.completion = some (.faulted c) ↔ WordRaises w s c := by
  rcases step_command_cases hs h with ⟨i, hd, hi⟩ | ⟨hd, rfl⟩
  · have hword : WordRaises w s c ↔ Raises i s c := by simp [WordRaises, hd]
    exact (exec_faulted_iff hi).trans hword.symm
  · simp [WordRaises, hd, eq_comm]

/-- The whole next state of a step that faults (R104). -/
theorem step_faulted (hs : s.inputs = .command w :: rest) (h : step s = .next t)
    (hc : t.completion = some (.faulted c)) : t = State.raise { s with inputs := rest } c := by
  rcases step_command_cases hs h with ⟨i, -, hi⟩ | ⟨-, rfl⟩
  · simpa [exec_of_raises ((exec_faulted_iff hi).mp hc)] using hi.symm
  · obtain rfl : .illegalCommand = c := by simpa using hc
    rfl

/-! ### The faults one by one, in the order of R105 -/

/-- No command raises IllegalCommand, so a word raises it only by being none. -/
theorem wordRaises_illegalCommand_iff :
    WordRaises w s .illegalCommand ↔ ∀ i, decode config.hasPower w ≠ .ok i := by
  simp [WordRaises, Raises]

theorem wordRaises_noKey_iff : WordRaises w s .noKey ↔ s.kvalid = false ∧
    ((∃ d, decode config.hasPower w = .ok (.decraw d)) ∨ ∃ d, decode config.hasPower w = .ok (.dec d)) := by
  simp [WordRaises, Raises, and_left_comm, and_or_left, exists_or]

theorem wordRaises_noRecord_iff : WordRaises w s .noRecord ↔
    s.rvalid = false ∧ ∃ n, decode config.hasPower w = .ok (.pwr n) := by
  simp [WordRaises, Raises, and_comm]

theorem wordRaises_divideByZero_iff : WordRaises w s .divideByZero ↔ s.rvalid = true ∧
    ∃ n, decode config.hasPower w = .ok (.pwr n) ∧ n.toNat * s.record.tbp.toNat = 0 := by
  simp [WordRaises, Raises, and_left_comm]

theorem wordRaises_powerOverflow_iff : WordRaises w s .powerOverflow ↔ s.rvalid = true ∧
    ∃ n, decode config.hasPower w = .ok (.pwr n) ∧ 2 ^ 32 ≤ n.toNat * s.record.tbp.toNat := by
  simp [WordRaises, Raises, and_left_comm]

end

/-- Settles O49: a step faults exactly when its word raises the fault, read off for each of the five causes. -/
theorem faultOrder : Obligations.FaultOrder := by
  intro s t w rest hs h
  have hfaulted (c : FaultCause) := step_faulted_iff (c := c) hs h
  refine ⟨(hfaulted _).trans wordRaises_illegalCommand_iff, (hfaulted _).trans wordRaises_noKey_iff, fun hc => ?_,
    (hfaulted _).trans wordRaises_noRecord_iff, (hfaulted _).trans wordRaises_divideByZero_iff,
    (hfaulted _).trans wordRaises_powerOverflow_iff⟩
  rw [step_faulted hs h hc]
  exact ⟨rfl, rfl, rfl⟩

/-- Settles O48. -/
theorem faultEntry : Obligations.FaultEntry := fun _ _ _ _ _ hs h hc => step_faulted hs h hc

/-! ### The endings of a command -/

/-- An accepted record is the fields of the plain bytes (R77). -/
theorem rawDecode_ok_record {serial : BitVec 32} {key : Keystream} {d : Payload} {r : Record}
    (h : rawDecode serial key d = .ok r) : r = fieldsOf (deobfuscate key d) := by
  obtain ⟨-, -, -, hr⟩ := (rawDecode_ok_iff serial key d r).mp h
  exact hr

/-- Only DECRAW and DEC decode a packet. -/
theorem Decodes.isDecode {i : Instr} {s : State} {r : Except ErrorKind Record} (h : Decodes i s r) :
    (∃ d, i = .decraw d) ∨ ∃ d, i = .dec d :=
  h.imp (fun ⟨d, hi, _⟩ => ⟨d, hi⟩) (fun ⟨d, hi, _⟩ => ⟨d, hi⟩)

/-- Settles O47: a decode ends with its record or its error, and a command of another kind with its own effect,
unless it faults. -/
theorem threeEndings : Obligations.ThreeEndings := by
  intro i s
  obtain ⟨t, h⟩ := exec_next i s
  refine ⟨t, h, ?_⟩
  rcases exec_cases h with ⟨n, rfl, rfl⟩ | ⟨d, rfl, rfl⟩ | ⟨r, hr, -, rfl⟩ | ⟨n, rfl, -, -, -, rfl⟩ | ⟨c, rfl, -⟩
  · exact .inl rfl
  · exact .inl rfl
  · cases r with
    | error k => exact .inr (.inl ⟨hr.isDecode, k, rfl⟩)
    | ok rec =>
      rcases hr with ⟨d, rfl, hd⟩ | ⟨d, rfl, hd⟩
      · obtain rfl := rawDecode_ok_record hd.symm
        exact .inl rfl
      · obtain rfl := rawDecode_ok_record (rawDecode_ok_of_checkedDecode_ok hd.symm)
        exact .inl rfl
  · exact .inl rfl
  · exact .inr (.inr ⟨c, rfl⟩)

/-! ### Steps and runs -/

/-- Settles O14: the first event has the same effect whatever events are still to come, and the other steps
take the next events from there. -/
theorem runsFinish : Obligations.RunsFinish := by
  intro s k hk
  induction k generalizing s with
  | zero => exact ⟨s, rfl, rfl, rfl⟩
  | succ k ih =>
    obtain ⟨e, rest, hs⟩ := List.exists_cons_of_length_pos (Nat.zero_lt_of_lt hk)
    obtain ⟨u, hu, hrest⟩ := accept_next config.hasPower e { s with inputs := rest }
    obtain rfl : u.inputs = rest := hrest
    obtain ⟨t, hrun, hinputs, hall⟩ := ih u (by simpa [hs] using hk)
    rw [hs, core_run_succ ((step_event hs).trans hu)]
    exact ⟨t, hrun, hinputs, (acceptAll_cons (accept_withInputs (u.inputs.drop k) hu)).trans hall⟩

/-- Settles O12. -/
theorem idleKeepsState : Obligations.IdleKeepsState := fun _ hs => step_idle hs

/-- Settles O13. -/
theorem everyStepCompletes : Obligations.EveryStepCompletes := exists_step_next

end Sys2Proof.Machine

/-!
PROOFS. 70_reset_and_hazards.md: what the reset event does, and what no other step does (R120).
-/

namespace Sys2Proof.Machine

/-- A valid key stays valid: LDSER validates it and every other command keeps the instance. -/
theorem exec_keeps_valid_key {i : Instr} {s t : State} (h : exec i s = .next t) (hk : s.kvalid = true) :
    t.kvalid = true := by
  by_cases hi : ∃ n, i = .ldser n
  · obtain ⟨n, rfl⟩ := hi
    injection h with h
    subst h
    rfl
  · obtain ⟨-, -, hkept⟩ := exec_keeps_instance (not_exists.mp hi) h
    exact hkept.trans hk

section
variable {s t : State} (hne : ∀ rest, s.inputs ≠ .reset :: rest) (h : step s = .next t)
include hne h

theorem step_keeps_valid_key (hk : s.kvalid = true) : t.kvalid = true := by
  rcases step_cases h with ⟨-, rfl⟩ | ⟨rest, hs, -⟩ | ⟨w, rest, -, ⟨i, -, hi⟩ | ⟨-, rfl⟩⟩
  · exact hk
  · exact absurd hs (hne rest)
  · exact exec_keeps_valid_key hi hk
  · exact hk

/-- `FAULT` is zero after such a step only if every bit of it, being sticky (R21), was zero before. -/
theorem step_keeps_fault_ne_zero (hf : s.fault ≠ 0) : t.fault ≠ 0 := by
  obtain ⟨-, hsticky⟩ := faultBitsSticky s t h
  refine fun hzero => hf (BitVec.eq_of_getLsbD_eq fun b hb => ?_)
  have hclear : s.fault.getLsbD b ≠ true := fun hset => by simpa [hzero] using hsticky hne b hb hset
  simpa using hclear

end

/-- Settles O11: the step is the reset itself, and every other step keeps a valid key and the bits of `FAULT`. -/
theorem resetEvent : Obligations.ResetEvent :=
  ⟨fun _ _ hs => ⟨_, step_event hs, rfl, rfl, rfl, rfl, rfl, rfl, rfl, rfl, rfl, rfl⟩,
    fun _ _ hne h => ⟨step_keeps_valid_key hne h, step_keeps_fault_ne_zero hne h⟩⟩

end Sys2Proof.Machine
